-- ==== Sys2Proof/Word.lean ====
section
/-! DEFINITION. The bit-vector types of the block and their plainest arithmetic. -/

namespace Sys2Proof

/-- A 32-bit data word: WDATA and RDATA of the command port (30_encoding.md R110), a position (10_state.md R33). -/
abbrev Word := BitVec 32

/-- The 16-bit command word CW (30_encoding.md R111). -/
abbrev CmdWord := BitVec 16

/-- A primitive mask: P bits, P at most 14, held in the low bits of 16 (log entry 7). -/
abbrev Mask := BitVec 16

/-- A byte pair, one byte for each output port (20_memory.md R84). -/
abbrev Pair := BitVec 16

/-- A ring cursor, an index held in 16 bits (10_state.md R34, R35). -/
abbrev Cursor := BitVec 16

/-- The IDX field of a command word, an address-slot index (30_encoding.md R111). -/
abbrev SlotIdx := BitVec 5

/-- The number of set bits (00_scope.md R9). -/
def popcount (m : BitVec 16) : Nat := (List.range 16).countP fun i => m.getLsbD i

/-- The mask of the P primitive bits, `2^P - 1`. -/
def lowMask (P : Nat) : Mask := BitVec.ofNat 16 (2 ^ P - 1)

end Sys2Proof
end

