-- ==== Sys2Proof/Config.lean ====
section
/-! DEFINITION. The configuration of the block (00_scope.md R5): fixed when the block is built, changed by no
command, tick or reset. The default tables of 41_encoder.md R202 and R203, and the two configurations
95_test_vectors.md names. -/

namespace Sys2Proof

/-- The bit of a byte pair that each signal drives (00_scope.md R5 `PMAP`): `prim[p]` for primitive line p, `aclk` for
the address clock, `pclk` for the primitive clock. -/
structure PortMap where
  prim : List Nat
  aclk : Nat
  pclk : Nat
deriving DecidableEq, Repr

/-- The parameters of 00_scope.md R5. -/
structure Config where
  /-- Address slots per fire pattern. -/
  A : Nat
  /-- Primitive lines per address slot. -/
  P : Nat
  /-- Ring capacity in slots. -/
  C : Nat
  /-- Size of the staging and active regions, in byte pairs. -/
  regionPairs : Nat
  /-- The settle window, in ticks. -/
  settle : Nat
  /-- Top count of the timer; its period is `tmrTop + 1` ticks. -/
  tmrTop : Nat
  /-- The timer count at which a transfer is armed. -/
  align : Nat
  /-- `DBUF`: true (1) if the staging and active regions are distinct, false (0) if they are one region. -/
  dbuf : Bool
  /-- `SPLIT_TABLE`: row k - 1 holds the k phase masks of pulse split k. -/
  splitTable : List (List Mask)
  /-- `PMAP`. -/
  pmap : PortMap
deriving DecidableEq, Repr

/-- `SPLIT_TABLE[k]`, the phase masks of pulse split k. -/
def Config.splitRow (c : Config) (k : Nat) : List Mask := c.splitTable.getD (k - 1) []

/-- `SPLIT_TABLE[k][j]`, the mask of phase j of pulse split k. -/
def Config.splitMask (c : Config) (k j : Nat) : Mask := (c.splitRow k).getD j 0

/-- The period of the timer in ticks, N of 42_dispatcher.md R262. -/
def Config.period (c : Config) : Nat := c.tmrTop + 1

/-- The default mask of phase j of split k: the primitive lines p with `p mod k = j` (41_encoder.md R203). -/
def defaultSplitMask (P k j : Nat) : Mask :=
  (List.range P).foldl (fun m p => if p % k = j then m ||| (1#16 <<< p) else m) 0

/-- The default split table (41_encoder.md R203). -/
def defaultSplitTable (P : Nat) : List (List Mask) :=
  [1, 2, 3, 4].map fun k => (List.range k).map (defaultSplitMask P k)

/-- The default port map: primitive p on bit p, the address clock on bit 14, the primitive clock on bit 15
(41_encoder.md R202). -/
def defaultPortMap (P : Nat) : PortMap := { prim := List.range P, aclk := 14, pclk := 15 }

/-- The configuration REF of 95_test_vectors.md: the reference head (A = 22, P = 14) with the default region, buffering
and tables of 00_scope.md R5. C, SETTLE, TMR_TOP and ALIGN are open parameters; REF's values are used (log entry 2). -/
def Config.ref : Config where
  A := 22
  P := 14
  C := 8
  regionPairs := 396
  settle := 2
  tmrTop := 1
  align := 1
  dbuf := true
  splitTable := defaultSplitTable 14
  pmap := defaultPortMap 14

/-- The configuration SMALL of 95_test_vectors.md. -/
def Config.small : Config where
  A := 2
  P := 14
  C := 4
  regionPairs := 36
  settle := 2
  tmrTop := 1
  align := 1
  dbuf := true
  splitTable := defaultSplitTable 14
  pmap := defaultPortMap 14

end Sys2Proof
end

