-- ==== Sys2Proof/Syntax.lean ====
section
/-! DEFINITION. The commands of the host command port, one constructor per row of the opcode map (30_encoding.md R113).
A command that reads WDATA carries the data word; the others drop it (R110, log entry 10). -/

namespace Sys2Proof

/-- A print side: side 0 is odd, side 1 is even (00_scope.md R13, 30_encoding.md R111). -/
inductive Side where
  | odd
  | even
deriving DecidableEq, Repr

/-- The commands (30_encoding.md R113), in opcode order. -/
inductive Instr where
  /-- Do nothing (42_dispatcher.md R260). -/
  | nop
  /-- Load the position operand (40_fifo.md R144). -/
  | ldpos (pos : Word)
  /-- Load word `a` of the pattern operand (40_fifo.md R145). -/
  | ldpat (a : SlotIdx) (mask : Word)
  /-- Append the operand entry (40_fifo.md R147). -/
  | add
  /-- Advance a side by one entry (40_fifo.md R148). -/
  | next (s : Side)
  /-- Read a side's current position (40_fifo.md R149). -/
  | peekpos (s : Side)
  /-- Read one word of a side's current pattern (40_fifo.md R150). -/
  | peekpat (s : Side) (a : SlotIdx)
  /-- Read the position of a side's next unread entry (40_fifo.md R151). -/
  | pkapos (s : Side)
  /-- Read one word of a side's next unread pattern (40_fifo.md R152). -/
  | pkapat (s : Side) (a : SlotIdx)
  /-- Read a side's unread count (40_fifo.md R153). -/
  | rdspc (s : Side)
  /-- Read the smaller unread count (40_fifo.md R154). -/
  | rdspcmin
  /-- Read the write space (40_fifo.md R155). -/
  | wrspc
  /-- The merged fire word of an address slot (40_fifo.md R159). -/
  | merged (a : SlotIdx)
  /-- Select the occupancy mode (40_fifo.md R160). -/
  | setmode (v : Word)
  /-- Read the occupancy mode (40_fifo.md R161). -/
  | getmode
  /-- Read the loop counter (40_fifo.md R162). -/
  | getloop
  /-- Empty the FIFO and zero its storage (40_fifo.md R163). -/
  | clearall
  /-- Rewind both read cursors (40_fifo.md R164). -/
  | resetrd
  /-- Enable or disable a side (40_fifo.md R156). -/
  | setact (s : Side) (v : Word)
  /-- Select the print mode (40_fifo.md R158). -/
  | setpmode (v : Word)
  /-- Set the pulse-split count (41_encoder.md R204). -/
  | setsplit (v : Word)
  /-- Set the pulse-timing mode (41_encoder.md R205). -/
  | settmode (v : Word)
  /-- Encode the merged pattern into the staging region (41_encoder.md R209). -/
  | encode
  /-- Encode the pattern operand into the staging region (41_encoder.md R210). -/
  | encin
  /-- Read one staging pair (41_encoder.md R211). -/
  | rdstg (i : Word)
  /-- Read one active pair (41_encoder.md R212). -/
  | rdact (i : Word)
  /-- Start a transfer of the staging region (42_dispatcher.md R250). -/
  | dispatch
  /-- Read the busy state (42_dispatcher.md R252). -/
  | isbusy
  /-- Clear the completion flag (42_dispatcher.md R253). -/
  | ackdone
  /-- Enable or disable the completion interrupt (42_dispatcher.md R254). -/
  | setirq (v : Word)
  /-- Read the status register (42_dispatcher.md R255). -/
  | rdstat
  /-- Read the transfer index (42_dispatcher.md R256). -/
  | rdxfer
  /-- Read the output port register (42_dispatcher.md R257). -/
  | rdport
  /-- Read the timer (42_dispatcher.md R258). -/
  | rdtmr
  /-- Read the settle counter (42_dispatcher.md R259). -/
  | rdelap
deriving DecidableEq, Repr

/-- The IDX operand of a command that uses the field (30_encoding.md R113). -/
def Instr.slotIdx : Instr → Option SlotIdx
  | .ldpat a _ => some a
  | .peekpat _ a => some a
  | .pkapat _ a => some a
  | .merged a => some a
  | .nop | .ldpos _ | .add | .next _ | .peekpos _ | .pkapos _ | .rdspc _ | .rdspcmin | .wrspc | .setmode _ | .getmode
  | .getloop | .clearall | .resetrd | .setact _ _ | .setpmode _ | .setsplit _ | .settmode _ | .encode | .encin | .rdstg _
  | .rdact _ | .dispatch | .isbusy | .ackdone | .setirq _ | .rdstat | .rdxfer | .rdport | .rdtmr | .rdelap => none

/-- The S operand of a command that uses the field (30_encoding.md R113). -/
def Instr.side : Instr → Option Side
  | .next s | .peekpos s | .pkapos s | .rdspc s => some s
  | .peekpat s _ | .pkapat s _ => some s
  | .setact s _ => some s
  | .nop | .ldpos _ | .ldpat _ _ | .add | .rdspcmin | .wrspc | .merged _ | .setmode _ | .getmode | .getloop | .clearall
  | .resetrd | .setpmode _ | .setsplit _ | .settmode _ | .encode | .encin | .rdstg _ | .rdact _ | .dispatch | .isbusy
  | .ackdone | .setirq _ | .rdstat | .rdxfer | .rdport | .rdtmr | .rdelap => none

/-- The data word of a command that reads WDATA (30_encoding.md R113). -/
def Instr.data : Instr → Option Word
  | .ldpos d | .setmode d | .setpmode d | .setsplit d | .settmode d | .rdstg d | .rdact d | .setirq d => some d
  | .ldpat _ d => some d
  | .setact _ d => some d
  | .nop | .add | .next _ | .peekpos _ | .peekpat _ _ | .pkapos _ | .pkapat _ _ | .rdspc _ | .rdspcmin | .wrspc
  | .merged _ | .getmode | .getloop | .clearall | .resetrd | .encode | .encin | .dispatch | .isbusy | .ackdone | .rdstat
  | .rdxfer | .rdport | .rdtmr | .rdelap => none

end Sys2Proof
end

