-- ==== Sys2Proof/WellFormed.lean ====
section
/-! DEFINITION. When a configuration is well formed (00_scope.md R6) and when a command is well formed for a block with A
address slots (30_encoding.md R111, R115). Both are decidable. -/

namespace Sys2Proof

/-- R6 check 1: the sizes of the head and of the ring. -/
abbrev Config.SizesOk (c : Config) : Prop := 1 ≤ c.A ∧ c.A ≤ 32 ∧ 1 ≤ c.P ∧ c.P ≤ 14 ∧ 2 ≤ c.C ∧ c.C ≤ 65535

/-- R6 check 2: the region holds the longest content the encoder emits. -/
abbrev Config.RegionOk (c : Config) : Prop := 18 * c.A ≤ c.regionPairs ∧ c.regionPairs ≤ 65535

/-- R6 check 3: the timer reaches ALIGN. -/
abbrev Config.TimerOk (c : Config) : Prop := c.align ≤ c.tmrTop ∧ c.tmrTop ≤ 65535

/-- R6 check 4: SETTLE + 1 fits in the settle counter. -/
abbrev Config.SettleOk (c : Config) : Prop := c.settle ≤ 2 ^ 32 - 2

/-- R6 check 5 for one split k: k disjoint masks whose union is `2^P - 1`, none with more than ⌈P/k⌉ bits. -/
abbrev Config.SplitRowOk (c : Config) (k : Nat) : Prop :=
  (c.splitRow k).length = k ∧
  (c.splitRow k).Pairwise (fun x y => x &&& y = 0) ∧
  (c.splitRow k).foldl (fun x y => x ||| y) 0 = lowMask c.P ∧
  ((c.splitRow k).all fun m => decide (popcount m ≤ (c.P + k - 1) / k)) = true

/-- R6 check 5. -/
abbrev Config.SplitOk (c : Config) : Prop := c.splitTable.length = 4 ∧ ∀ k ∈ [1, 2, 3, 4], c.SplitRowOk k

/-- R6 check 6: P + 2 distinct bit positions in 0..15. -/
abbrev Config.PortMapOk (c : Config) : Prop :=
  c.pmap.prim.length = c.P ∧
  (c.pmap.prim ++ [c.pmap.aclk, c.pmap.pclk]).Nodup ∧
  ∀ b ∈ c.pmap.prim ++ [c.pmap.aclk, c.pmap.pclk], b < 16

/-- A well-formed configuration (00_scope.md R6). Check 7, `DBUF ∈ {0, 1}`, holds by the type of `dbuf`. -/
abbrev Config.Wf (c : Config) : Prop :=
  c.SizesOk ∧ c.RegionOk ∧ c.TimerOk ∧ c.SettleOk ∧ c.SplitOk ∧ c.PortMapOk

/-- A well-formed command for a block with A address slots: an IDX operand is one of 0..A-1 (30_encoding.md R111). -/
abbrev Instr.Wf (A : Nat) (i : Instr) : Prop := ∀ a ∈ i.slotIdx, a.toNat < A

end Sys2Proof
end

