-- ==== Sys2Proof/Decode.lean ====
section
/-! DEFINITION. Decoding of the command word (30_encoding.md R111 to R116) and, after it, the encoder. Decoding is total:
every CW and WDATA gives a command or one of the named causes of ILLEGAL (60_exceptions.md R302, causes 1 to 5). -/

namespace Sys2Proof

/-- The causes for which decoding fails, in the order of the checks of 30_encoding.md R115. -/
inductive DecodeError where
  /-- Check 1: OP is reserved. -/
  | reservedOpcode
  /-- Check 2: CW[3:0] is not 0. -/
  | reservedBits
  /-- Check 3: S = 1 on a command that does not use S. -/
  | sideUnused
  /-- Check 4: IDX is not 0 on a command that does not use IDX. -/
  | indexUnused
  /-- Check 5: IDX ≥ A. -/
  | indexRange
deriving DecidableEq, Repr

/-- What decoding a command word gives. -/
inductive Decoded where
  | command (i : Instr)
  | illegal (e : DecodeError)
deriving DecidableEq, Repr

/-- OP = CW[15:10] (30_encoding.md R111). -/
def opField (cw : CmdWord) : BitVec 6 := cw.extractLsb' 10 6

/-- S = CW[9]: 0 is odd, 1 is even (30_encoding.md R111). -/
def sideField (cw : CmdWord) : Side := if cw.getLsbD 9 then .even else .odd

/-- IDX = CW[8:4] (30_encoding.md R111). -/
def idxField (cw : CmdWord) : SlotIdx := cw.extractLsb' 4 5

/-- RSV = CW[3:0] (30_encoding.md R111). -/
def rsvField (cw : CmdWord) : BitVec 4 := cw.extractLsb' 0 4

/-- The opcode map (30_encoding.md R113): the command of an opcode, given the fields and the data word it may use. -/
def commandOf (op : BitVec 6) (s : Side) (a : SlotIdx) (d : Word) : Option Instr :=
  match op with
  | 0x00#6 => some .nop
  | 0x01#6 => some (.ldpos d)
  | 0x02#6 => some (.ldpat a d)
  | 0x03#6 => some .add
  | 0x04#6 => some (.next s)
  | 0x05#6 => some (.peekpos s)
  | 0x06#6 => some (.peekpat s a)
  | 0x07#6 => some (.pkapos s)
  | 0x08#6 => some (.pkapat s a)
  | 0x09#6 => some (.rdspc s)
  | 0x0A#6 => some .rdspcmin
  | 0x0B#6 => some .wrspc
  | 0x0C#6 => some (.merged a)
  | 0x0D#6 => some (.setmode d)
  | 0x0E#6 => some .getmode
  | 0x0F#6 => some .getloop
  | 0x10#6 => some .clearall
  | 0x11#6 => some .resetrd
  | 0x12#6 => some (.setact s d)
  | 0x13#6 => some (.setpmode d)
  | 0x20#6 => some (.setsplit d)
  | 0x21#6 => some (.settmode d)
  | 0x22#6 => some .encode
  | 0x23#6 => some .encin
  | 0x24#6 => some (.rdstg d)
  | 0x25#6 => some (.rdact d)
  | 0x30#6 => some .dispatch
  | 0x31#6 => some .isbusy
  | 0x32#6 => some .ackdone
  | 0x33#6 => some (.setirq d)
  | 0x34#6 => some .rdstat
  | 0x35#6 => some .rdxfer
  | 0x36#6 => some .rdport
  | 0x37#6 => some .rdtmr
  | 0x38#6 => some .rdelap
  | _ => none

/-- Decode a command word and data word for a block with A address slots, by the checks of 30_encoding.md R115 in their
order. -/
def decode (A : Nat) (cw : CmdWord) (wdata : Word) : Decoded :=
  match commandOf (opField cw) (sideField cw) (idxField cw) wdata with
  | none => .illegal .reservedOpcode
  | some i =>
    if rsvField cw ≠ 0 then .illegal .reservedBits
    else if i.side = none ∧ sideField cw ≠ .odd then .illegal .sideUnused
    else if i.slotIdx = none ∧ idxField cw ≠ 0 then .illegal .indexUnused
    else if i.slotIdx ≠ none ∧ A ≤ (idxField cw).toNat then .illegal .indexRange
    else .command i

/-- The opcode of a command (30_encoding.md R113). -/
def opcode : Instr → BitVec 6
  | .nop => 0x00#6
  | .ldpos _ => 0x01#6
  | .ldpat _ _ => 0x02#6
  | .add => 0x03#6
  | .next _ => 0x04#6
  | .peekpos _ => 0x05#6
  | .peekpat _ _ => 0x06#6
  | .pkapos _ => 0x07#6
  | .pkapat _ _ => 0x08#6
  | .rdspc _ => 0x09#6
  | .rdspcmin => 0x0A#6
  | .wrspc => 0x0B#6
  | .merged _ => 0x0C#6
  | .setmode _ => 0x0D#6
  | .getmode => 0x0E#6
  | .getloop => 0x0F#6
  | .clearall => 0x10#6
  | .resetrd => 0x11#6
  | .setact _ _ => 0x12#6
  | .setpmode _ => 0x13#6
  | .setsplit _ => 0x20#6
  | .settmode _ => 0x21#6
  | .encode => 0x22#6
  | .encin => 0x23#6
  | .rdstg _ => 0x24#6
  | .rdact _ => 0x25#6
  | .dispatch => 0x30#6
  | .isbusy => 0x31#6
  | .ackdone => 0x32#6
  | .setirq _ => 0x33#6
  | .rdstat => 0x34#6
  | .rdxfer => 0x35#6
  | .rdport => 0x36#6
  | .rdtmr => 0x37#6
  | .rdelap => 0x38#6

/-- The S bit of a side. -/
def sideBit : Side → BitVec 1
  | .odd => 0#1
  | .even => 1#1

/-- The command word of a command, `OP<<10 | S<<9 | IDX<<4` with unused fields 0 (30_encoding.md R113). -/
def encodeCw (i : Instr) : CmdWord :=
  opcode i ++ sideBit (i.side.getD .odd) ++ i.slotIdx.getD 0 ++ 0#4

/-- The data word sent with a command; 0 for a command with no data operand (30_encoding.md R118). -/
def encodeData (i : Instr) : Word := i.data.getD 0

/-- The words of a command: CW and WDATA. -/
def encode (i : Instr) : CmdWord × Word := (encodeCw i, encodeData i)

/-- The command the decoder reads from an instruction whose bits are `w`, of which `nbits` are given and the rest are 0:
CW is bits 15..0 and WDATA is bits 47..16. A table row names no configuration, so the decoder is asked for the widest block,
A = 32 (log entry 5). -/
def decodeTableWord (nbits w : Nat) : Option Instr :=
  match decode 32 (BitVec.ofNat 16 (w % 2 ^ nbits)) (BitVec.ofNat 32 (w % 2 ^ nbits / 2 ^ 16)) with
  | .command i => some i
  | .illegal _ => none

end Sys2Proof
end

