-- ==== Sys2Proof/Machine/State.lean ====
section
/-! DEFINITION. The state of the block: every element of 10_state.md R33 to R53, the model's own three fields (the
configuration, the schedule of the agents' next events, the last answer of the command port), and the state after reset
(70_reset_and_hazards.md R330). -/

namespace Sys2Proof.Machine

/-- A pair of values, one per print side. -/
structure Sides (α : Type) where
  odd : α
  even : α
deriving DecidableEq, Repr

/-- The value of a side. -/
def Sides.get {α : Type} (x : Sides α) : Side → α
  | .odd => x.odd
  | .even => x.even

/-- Replace the value of one side. -/
def Sides.set {α : Type} (x : Sides α) (s : Side) (v : α) : Sides α :=
  match s with
  | .odd => { x with odd := v }
  | .even => { x with even := v }

/-- One queue entry: a position and a fire pattern of A masks (10_state.md R33). -/
structure Slot where
  pos : Word
  pat : List Mask
deriving DecidableEq, Repr

/-- The indexed storage of the block (20_memory.md R80 to R83). -/
structure Memory where
  /-- Slot space: `SLOT_POS[i]`, `SLOT_PAT[i][a]` (10_state.md R33). -/
  slots : List Slot
  /-- `IN_POS` (10_state.md R40). -/
  inPos : Word
  /-- `IN_PAT[a]` (10_state.md R41). -/
  inPat : List Mask
  /-- `STAGE[i]` (10_state.md R44); with DBUF = 0 also `ACTIVE[i]` (10_state.md R45). -/
  stage : List Pair
  /-- The cells of `ACTIVE[i]` with DBUF = 1; no cells with DBUF = 0 (10_state.md R45, log entry 8). -/
  activeBuf : List Pair
deriving DecidableEq, Repr

/-- A mask that fits in P bits. -/
abbrev MaskFits (P : Nat) (m : Mask) : Prop := m.toNat < 2 ^ P

/-- A fire pattern: A masks of P bits. -/
abbrev PatternOk (c : Config) (pat : List Mask) : Prop :=
  pat.length = c.A ∧ (pat.all fun m => decide (MaskFits c.P m)) = true

/-- The form of the storage for a configuration: each space has exactly the elements the spec gives it and every mask fits in
P bits. So equal storage is equal data. -/
abbrev Memory.wf (c : Config) (m : Memory) : Prop :=
  m.slots.length = c.C ∧ (∀ e ∈ m.slots, PatternOk c e.pat) ∧ PatternOk c m.inPat ∧
  m.stage.length = c.regionPairs ∧ m.activeBuf.length = if c.dbuf then c.regionPairs else 0

/-- The occupancy modes (10_state.md R36). -/
inductive Mode where
  | clearing
  | static
  | looping
deriving DecidableEq, Repr

/-- The print modes (10_state.md R39). -/
inductive PrintMode where
  | both
  | oddOnly
  | evenOnly
deriving DecidableEq, Repr

/-- The pulse-split counts (10_state.md R42). -/
inductive Split where
  | one
  | two
  | three
  | four
deriving DecidableEq, Repr

/-- The timing modes (10_state.md R43). -/
inductive TimingMode where
  | short
  | long
deriving DecidableEq, Repr

/-- The dispatcher states (10_state.md R46). -/
inductive DState where
  | idle
  | arming
  | inflight
deriving DecidableEq, Repr

/-- The result codes a command returns (60_exceptions.md R301); the values 6 and 7 are never returned. -/
inductive ResultCode where
  | ok
  | full
  | empty
  | busy
  | illegal
  | hazard
deriving DecidableEq, Repr

/-- The answer of a command: RC and RDATA (30_encoding.md R110). -/
structure Response where
  rc : ResultCode
  rdata : Word
deriving DecidableEq, Repr

/-- An event: what one of the three agents does (00_scope.md R7). -/
inductive Event where
  /-- The host issues a command. -/
  | command (cw : CmdWord) (wdata : Word)
  /-- The clock agent takes one tick. -/
  | tick
  /-- The reset input acts. -/
  | reset
deriving DecidableEq, Repr

/-- The faults of the block: none. The block has no traps and no command or tick stops it (60_exceptions.md R300, R303). -/
inductive Fault
deriving DecidableEq, Repr

/-- Why the model refuses to act. -/
inductive Refusal where
  /-- Raised by an arm of `exec` whose instruction has no meaning in the model yet. Safe: nothing is claimed of it. -/
  | notModelled (mnemonic : String)
  /-- Raised by `powerUp` and by `step` for a configuration that breaks 00_scope.md R6: the model builds and runs no such
  block (92_eei_decisions.md D37). Safe: no such hardware exists. -/
  | illFormedConfig
deriving DecidableEq, Repr

/-- The state of the block. -/
structure State where
  /-- MODEL: the configuration the block was built with; no step changes it (log entry 1). -/
  cfg : Config
  /-- The indexed storage. -/
  mem : Memory
  /-- `W`, the write cursor (10_state.md R34). -/
  w : Cursor
  /-- `R[0]`, `R[1]`, the read cursors (10_state.md R35). -/
  r : Sides Cursor
  /-- `MODE` (10_state.md R36). -/
  mode : Mode
  /-- `LOOPCNT` (10_state.md R37). -/
  loopcnt : BitVec 32
  /-- `ACT[0]`, `ACT[1]`, the side enables (10_state.md R38). -/
  act : Sides Bool
  /-- `PMODE` (10_state.md R39). -/
  pmode : PrintMode
  /-- `SPLIT` (10_state.md R42). -/
  split : Split
  /-- `TMODE` (10_state.md R43). -/
  tmode : TimingMode
  /-- `DSTATE` (10_state.md R46). -/
  dstate : DState
  /-- `PAIR_IDX` (10_state.md R47). -/
  pairIdx : BitVec 16
  /-- `TMR` (10_state.md R48). -/
  tmr : BitVec 16
  /-- `TRIG_PEND` (10_state.md R49). -/
  trigPend : Bool
  /-- `ELAPSED` (10_state.md R50). -/
  elapsed : BitVec 32
  /-- `DONE_PEND` (10_state.md R51). -/
  donePend : Bool
  /-- `IRQ_EN` (10_state.md R52). -/
  irqEn : Bool
  /-- `PORT` (10_state.md R53). -/
  port : BitVec 16
  /-- MODEL: the events the agents perform next, oldest first (log entry 3). -/
  inputs : List Event
  /-- MODEL: the answer to the last command, none before the first (log entry 4). -/
  response : Option Response
deriving DecidableEq, Repr

/-- What executing a command gives. -/
abbrev Result := Host.Outcome State Fault Refusal

/-- Storage with 0 in every bit (10_state.md R33, R40, R41, R44, R45). -/
def Memory.zero (c : Config) : Memory where
  slots := List.replicate c.C { pos := 0, pat := List.replicate c.A 0 }
  inPos := 0
  inPat := List.replicate c.A 0
  stage := List.replicate c.regionPairs 0
  activeBuf := List.replicate (if c.dbuf then c.regionPairs else 0) 0

/-- The state of a block of a given configuration right after reset (70_reset_and_hazards.md R330), with nothing scheduled
and no answer given yet. -/
def State.resetWith (c : Config) : State where
  cfg := c
  mem := Memory.zero c
  w := 1
  r := { odd := 0, even := 0 }
  mode := .clearing
  loopcnt := 0
  act := { odd := true, even := true }
  pmode := .both
  split := .one
  tmode := .short
  dstate := .idle
  pairIdx := 0
  tmr := 0
  trigPend := false
  elapsed := BitVec.ofNat 32 (c.settle + 1)
  donePend := false
  irqEn := false
  port := 0
  inputs := []
  response := none

/-- The block of the reference configuration right after reset (log entry 2). -/
def State.reset : State := State.resetWith Config.ref

end Sys2Proof.Machine
end

