-- ==== Sys2Proof/Machine/Flags.lean ====
section
/-! DEFINITION. The status views of the block. It has no condition codes (10_state.md R55): its status is `busy()`, the side
gate, the interrupt line, the outputs and the status register STAT (R54, R56), all computed from the state. -/

namespace Sys2Proof.Machine

/-- The numeric value of a mode (10_state.md R36). -/
def Mode.code : Mode → BitVec 2
  | .clearing => 0#2
  | .static => 1#2
  | .looping => 2#2

/-- The numeric value of a print mode (10_state.md R39). -/
def PrintMode.code : PrintMode → BitVec 2
  | .both => 0#2
  | .oddOnly => 1#2
  | .evenOnly => 2#2

/-- The pulse-split count as a number (10_state.md R42). -/
def Split.count : Split → Nat
  | .one => 1
  | .two => 2
  | .three => 3
  | .four => 4

/-- The pulse-split count as the 3-bit register SPLIT (10_state.md R42). -/
def Split.code (k : Split) : BitVec 3 := BitVec.ofNat 3 k.count

/-- The timing mode as the t of 41_encoder.md R206: 0 SHORT, 1 LONG. -/
def TimingMode.num : TimingMode → Nat
  | .short => 0
  | .long => 1

/-- The timing mode as the 1-bit register TMODE (10_state.md R43). -/
def TimingMode.code (t : TimingMode) : BitVec 1 := BitVec.ofNat 1 t.num

/-- The numeric value of a dispatcher state (10_state.md R46). -/
def DState.code : DState → BitVec 2
  | .idle => 0#2
  | .arming => 1#2
  | .inflight => 2#2

/-- The 3-bit value of a result code (60_exceptions.md R301). -/
def ResultCode.code : ResultCode → BitVec 3
  | .ok => 0#3
  | .full => 1#3
  | .empty => 2#3
  | .busy => 3#3
  | .illegal => 4#3
  | .hazard => 5#3

/-- `busy()`: a transfer is armed or in flight, or the settle window has not passed (42_dispatcher.md R244). -/
def State.busy (s : State) : Bool := decide (s.dstate ≠ .idle) || decide (s.elapsed.toNat ≤ s.cfg.settle)

/-- What the print mode permits a side (40_fifo.md R157). -/
def PrintMode.permits : PrintMode → Side → Bool
  | .both, .odd => true
  | .both, .even => true
  | .oddOnly, .odd => true
  | .oddOnly, .even => false
  | .evenOnly, .odd => false
  | .evenOnly, .even => true

/-- `contributes(s)`, the side gate of the merge (40_fifo.md R157). -/
def State.contributes (s : State) (side : Side) : Bool := s.act.get side && s.pmode.permits side

/-- The interrupt line `irq = DONE_PEND & IRQ_EN`, a level (42_dispatcher.md R249). -/
def State.irq (s : State) : Bool := s.donePend && s.irqEn

/-- Output port 0 = `PORT[7:0]` (10_state.md R54). -/
def State.port0 (s : State) : BitVec 8 := s.port.extractLsb' 0 8

/-- Output port 1 = `PORT[15:8]` (10_state.md R54). -/
def State.port1 (s : State) : BitVec 8 := s.port.extractLsb' 8 8

/-- The status register STAT, its fields from bit 31 down to bit 0 (10_state.md R56). -/
def State.stat (s : State) : Word :=
  0#14 ++ BitVec.ofBool s.irq ++ BitVec.ofBool s.cfg.dbuf ++ BitVec.ofBool s.trigPend ++ BitVec.ofBool s.irqEn ++
    BitVec.ofBool s.donePend ++ BitVec.ofBool s.busy ++ s.dstate.code ++ s.tmode.code ++ s.split.code ++
    BitVec.ofBool s.act.even ++ BitVec.ofBool s.act.odd ++ s.pmode.code ++ s.mode.code

end Sys2Proof.Machine
end

