-- ==== Sys2Proof/Machine/Operands.lean ====
section
/-! DEFINITION. How a command reads its data word (30_encoding.md R112, R117): as a 32-bit pattern, a P-bit mask or an
unsigned number. Nothing is sign-extended, scaled or shifted. -/

namespace Sys2Proof.Machine

/-- `WDATA[P-1:0]`, the rest discarded (40_fifo.md R145). -/
def maskOperand (P : Nat) (d : Word) : Mask := (d.setWidth 16) &&& lowMask P

/-- The occupancy mode a WDATA value selects; none for a value SETMODE ignores (40_fifo.md R160). -/
def modeOperand (d : Word) : Option Mode :=
  match d.toNat with
  | 0 => some .clearing
  | 1 => some .static
  | 2 => some .looping
  | _ => none

/-- The print mode a WDATA value selects; none for a value SETPMODE ignores (40_fifo.md R158). -/
def printModeOperand (d : Word) : Option PrintMode :=
  match d.toNat with
  | 0 => some .both
  | 1 => some .oddOnly
  | 2 => some .evenOnly
  | _ => none

/-- The timing mode a WDATA value selects; none for a value SETTMODE ignores (41_encoder.md R205). -/
def timingOperand (d : Word) : Option TimingMode :=
  match d.toNat with
  | 0 => some .short
  | 1 => some .long
  | _ => none

/-- The bit a WDATA value gives SETACT and SETIRQ; none for a value they ignore (40_fifo.md R156, 42_dispatcher.md R254). -/
def bitOperand (d : Word) : Option Bool :=
  match d.toNat with
  | 0 => some false
  | 1 => some true
  | _ => none

/-- The pulse-split count a WDATA value sets, clamped to 1..4 (41_encoder.md R204). -/
def splitOperand (d : Word) : Split :=
  match d.toNat with
  | 0 => .one
  | 1 => .one
  | 2 => .two
  | 3 => .three
  | _ => .four

/-- The number a WDATA value is read as by RDSTG and RDACT, the whole word (41_encoder.md R211, 90_conflicts.md C10). -/
def indexOperand (d : Word) : Nat := d.toNat

end Sys2Proof.Machine
end

