-- ==== Sys2Proof/Machine/Ops.lean ====
section
/-! DEFINITION. The named operations over the storage, the cursors and the command port. Every read and write of an indexed
element goes through here. The block has no trap, so the operation that a command ends in when it cannot do its work is
`fail` (00_scope.md R11, 60_exceptions.md R300, R301, R305), and there is no return from it (R306). -/

namespace Sys2Proof.Machine

/-! ### The command port -/

/-- Put an answer on the command port; nothing else changes. -/
def State.answer (s : State) (rc : ResultCode) (rdata : Word) : State := { s with response := some { rc := rc, rdata := rdata } }

/-- End a command with a result code and RDATA (00_scope.md R11 `respond`). -/
def respond (rc : ResultCode) (rdata : Word) (s : State) : Result := .next (s.answer rc rdata)

/-- End a command with a code other than OK: RDATA = 0 and no state written (00_scope.md R11 `fail`, 60_exceptions.md R301). -/
def fail (rc : ResultCode) (s : State) : Result := respond rc 0 s

/-- End a command with OK and RDATA. -/
def ok (rdata : Word) (s : State) : Result := respond .ok rdata s

/-- A count as an unsigned 32-bit RDATA (00_scope.md R10). -/
def countWord (n : Nat) : Word := BitVec.ofNat 32 n

/-! ### Slot space (20_memory.md R81) -/

/-- A slot with 0 in every bit. -/
def emptySlot (A : Nat) : Slot := { pos := 0, pat := List.replicate A 0 }

/-- Slot i (20_memory.md R81). The index is a cursor, always in range (R86); outside the ring it reads as zeros (log
entry 11). -/
def Memory.slotAt (m : Memory) (i : Nat) : Slot := m.slots.getD i { pos := 0, pat := [] }

/-- `SLOT_POS[i]`. -/
def Memory.slotPos (m : Memory) (i : Nat) : Word := (m.slotAt i).pos

/-- `SLOT_PAT[i][a]`. -/
def Memory.slotPat (m : Memory) (i a : Nat) : Mask := (m.slotAt i).pat.getD a 0

/-- Write slot i whole (20_memory.md R87, R88). -/
def Memory.writeSlot (m : Memory) (i : Nat) (e : Slot) : Memory := { m with slots := m.slots.set i e }

/-- Zero every slot of a ring of C slots (40_fifo.md R163). -/
def Memory.clearSlots (m : Memory) (A C : Nat) : Memory := { m with slots := List.replicate C (emptySlot A) }

/-! ### Operand space (20_memory.md R83) -/

/-- `IN_PAT[a]`. -/
def Memory.inPatAt (m : Memory) (a : Nat) : Mask := m.inPat.getD a 0

/-- Write `IN_PAT[a]`; the other words keep their values (40_fifo.md R145). -/
def Memory.writeInPat (m : Memory) (a : Nat) (x : Mask) : Memory := { m with inPat := m.inPat.set a x }

/-- Write `IN_POS` (40_fifo.md R144). -/
def Memory.writeInPos (m : Memory) (x : Word) : Memory := { m with inPos := x }

/-- The operand entry that ADD stores (40_fifo.md R147). -/
def Memory.operandEntry (m : Memory) : Slot := { pos := m.inPos, pat := m.inPat }

/-! ### Region spaces (20_memory.md R82) -/

/-- `STAGE[i]`. -/
def Memory.stageAt (m : Memory) (i : Nat) : Pair := m.stage.getD i 0

/-- The active region: storage of its own with DBUF = 1, the cells of STAGE with DBUF = 0 (10_state.md R45). -/
def Memory.active (dbuf : Bool) (m : Memory) : List Pair := if dbuf then m.activeBuf else m.stage

/-- `ACTIVE[i]`. -/
def Memory.activeAt (dbuf : Bool) (m : Memory) (i : Nat) : Pair := (m.active dbuf).getD i 0

/-- Write every pair of the staging region (41_encoder.md R209). -/
def Memory.writeStage (m : Memory) (out : List Pair) : Memory := { m with stage := out }

/-- The staging-to-active copy; with DBUF = 0 there is none (42_dispatcher.md R250, R251). -/
def Memory.copyToActive (dbuf : Bool) (m : Memory) : Memory := if dbuf then { m with activeBuf := m.stage } else m

/-! ### Cursors and counts -/

/-- The next index of a ring of C slots, `(c + 1) mod C` (40_fifo.md R146 to R148). -/
def advance (C : Nat) (c : Cursor) : Cursor := BitVec.ofNat 16 ((c.toNat + 1) % C)

/-- `unread(s) = (W - R[s] - 1) mod C` (40_fifo.md R141), the mathematical remainder (00_scope.md R10). -/
def State.unread (s : State) (side : Side) : Nat :=
  (((s.w.toNat : Int) - ((s.r.get side).toNat : Int) - 1) % (s.cfg.C : Int)).toNat

/-- `wspace()` (40_fifo.md R142). -/
def State.wspace (s : State) : Nat :=
  match s.mode with
  | .clearing => s.cfg.C - 1 - max (s.unread .odd) (s.unread .even)
  | .static => s.cfg.C - s.w.toNat
  | .looping => s.cfg.C - s.w.toNat

/-- The index of a side's current slot, `R[s]` (40_fifo.md R146). -/
def State.curSlot (s : State) (side : Side) : Nat := (s.r.get side).toNat

/-- The index of a side's next slot, `(R[s] + 1) mod C` (40_fifo.md R146). -/
def State.nxtSlot (s : State) (side : Side) : Nat := ((s.r.get side).toNat + 1) % s.cfg.C

/-- Move a side's read cursor onto its next slot (40_fifo.md R148). -/
def State.advanceRead (s : State) (side : Side) : State :=
  { s with r := s.r.set side (advance s.cfg.C (s.r.get side)) }

/-- Rewind both read cursors to 0 (40_fifo.md R148, R163, R164). -/
def State.rewind (s : State) : State := { s with r := { odd := 0, even := 0 } }

/-- The loop reset of LOOPING mode: when both sides are empty, rewind and count (40_fifo.md R148). -/
def State.loopReset (s : State) : State :=
  if s.mode = .looping ∧ s.unread .odd = 0 ∧ s.unread .even = 0
  then { s.rewind with loopcnt := s.loopcnt + 1 }
  else s

/-- Write the operand entry into slot W and advance W (40_fifo.md R147). -/
def State.pushEntry (s : State) : State :=
  { s with mem := s.mem.writeSlot s.w.toNat s.mem.operandEntry, w := advance s.cfg.C s.w }

/-! ### Reset and power-up -/

/-- The reset transition: every state element takes its reset value (70_reset_and_hazards.md R330, R331). The configuration
and the events still to come are not state elements of the block and stay; no answer stands on the port (log entry 4). -/
def State.applyReset (s : State) : State := { State.resetWith s.cfg with inputs := s.inputs }

/-- Build a block: the state after its first reset, refused for a configuration that breaks 00_scope.md R6
(70_reset_and_hazards.md R334, 92_eei_decisions.md D37). -/
def powerUp (c : Config) : Result := if c.Wf then .next (State.resetWith c) else .refused .illFormedConfig

end Sys2Proof.Machine
end

