-- ==== Sys2Proof/Machine/Dispatcher.lean ====
section
/-! DEFINITION. The dispatcher and status commands (42_dispatcher.md), in opcode order. -/

namespace Sys2Proof.Machine

/-- NOP (42_dispatcher.md R260). -/
def execNop (s : State) : Result := ok 0 s

/-- DISPATCH (42_dispatcher.md R250, R251): refused with BUSY while busy; else copies the region and arms. -/
def execDispatch (s : State) : Result :=
  if s.busy then fail .busy s
  else ok 0 { s with mem := s.mem.copyToActive s.cfg.dbuf, trigPend := false, dstate := .arming }

/-- ISBUSY (42_dispatcher.md R252). -/
def execIsbusy (s : State) : Result := ok (if s.busy then 1 else 0) s

/-- ACKDONE (42_dispatcher.md R253). -/
def execAckdone (s : State) : Result := ok 0 { s with donePend := false }

/-- SETIRQ (42_dispatcher.md R254). -/
def execSetirq (v : Word) (s : State) : Result :=
  match bitOperand v with
  | some b => ok 1 { s with irqEn := b }
  | none => ok 0 s

/-- RDSTAT (42_dispatcher.md R255). -/
def execRdstat (s : State) : Result := ok s.stat s

/-- RDXFER (42_dispatcher.md R256). -/
def execRdxfer (s : State) : Result := ok (s.pairIdx.setWidth 32) s

/-- RDPORT (42_dispatcher.md R257). -/
def execRdport (s : State) : Result := ok (s.port.setWidth 32) s

/-- RDTMR (42_dispatcher.md R258). -/
def execRdtmr (s : State) : Result := ok (s.tmr.setWidth 32) s

/-- RDELAP (42_dispatcher.md R259). -/
def execRdelap (s : State) : Result := ok s.elapsed s

end Sys2Proof.Machine
end

