-- ==== Sys2Proof/Machine/Burst.lean ====
section
/-! DEFINITION. The encoding function of the burst encoder (41_encoder.md R200 to R207): a pure function of the
configuration, a fire pattern, the pulse-split count and the timing mode. -/

namespace Sys2Proof.Machine

/-- The bits of a pair that the set bits of a primitive mask drive (41_encoder.md R201). -/
def primBits (c : Config) (m : Mask) : Pair :=
  (List.range c.P).foldl (fun acc p => if m.getLsbD p then acc ||| (1#16 <<< c.pmap.prim.getD p 0) else acc) 0

/-- One signal bit of a pair. -/
def signalBit (b : Bool) (pos : Nat) : Pair := if b then 1#16 <<< pos else 0

/-- `pw(m, ac, pc)`: the byte pair of a primitive mask, an address-clock bit and a primitive-clock bit (41_encoder.md R201). -/
def pw (c : Config) (m : Mask) (ac pc : Bool) : Pair :=
  primBits c m ||| signalBit ac c.pmap.aclk ||| signalBit pc c.pmap.pclk

/-- The pairs of one phase: data, data with clock, the repeat of it in long mode (t = 1), all zero (41_encoder.md R206 steps
3b to 3e). -/
def phasePairs (c : Config) (m : Mask) (t : Nat) : List Pair :=
  [pw c m false false, pw c m false true] ++ (if t = 1 then [pw c m false true] else []) ++ [pw c 0 false false]

/-- The pairs of one address slot: address advance, address settle, then the k phases (41_encoder.md R206 steps 1 to 3). -/
def slotPairs (c : Config) (word : Mask) (k t : Nat) : List Pair :=
  [pw c 0 true false, pw c 0 false false] ++ (List.range k).flatMap fun j => phasePairs c (word &&& c.splitMask k j) t

/-- The pairs of all A address slots in order, before backfill (41_encoder.md R206). -/
def contentPairs (c : Config) (pat : List Mask) (k t : Nat) : List Pair :=
  (List.range c.A).flatMap fun a => slotPairs c (pat.getD a 0) k t

/-- Backfill with all-zero pairs up to a length (41_encoder.md R206 step 4). -/
def backfill (n : Nat) (out : List Pair) : List Pair := out ++ List.replicate (n - out.length) 0

/-- `enc(pat, k, t)` (41_encoder.md R206). -/
def enc (c : Config) (pat : List Mask) (k t : Nat) : List Pair := backfill c.regionPairs (contentPairs c pat k t)

/-- The content length `L(k, t) = A · (2 + k · (3 + t))` (41_encoder.md R207). -/
def contentLength (c : Config) (k t : Nat) : Nat := c.A * (2 + k * (3 + t))

/-- The RDATA of the encode commands: L(k, t) in bits 31..16, REGION_PAIRS in bits 15..0 (41_encoder.md R209, R210). -/
def encodeLengths (c : Config) (k t : Nat) : Word := BitVec.ofNat 16 (contentLength c k t) ++ BitVec.ofNat 16 c.regionPairs

end Sys2Proof.Machine
end

