-- ==== Sys2Proof/Machine/Fifo.lean ====
section
/-! DEFINITION. The FIFO commands (40_fifo.md), in opcode order. -/

namespace Sys2Proof.Machine

/-- LDPOS (40_fifo.md R144). -/
def execLdpos (pos : Word) (s : State) : Result := ok 0 { s with mem := s.mem.writeInPos pos }

/-- LDPAT (40_fifo.md R145). -/
def execLdpat (a : SlotIdx) (mask : Word) (s : State) : Result :=
  ok 0 { s with mem := s.mem.writeInPat a.toNat (maskOperand s.cfg.P mask) }

/-- ADD (40_fifo.md R147): the RDATA is the write space of the new state. -/
def execAdd (s : State) : Result :=
  if s.wspace = 0 then fail .full s else ok (countWord s.pushEntry.wspace) s.pushEntry

/-- NEXT (40_fifo.md R148): the loop reset, if any, happens in the same command and RDATA is the unread count after it. -/
def execNext (side : Side) (s : State) : Result :=
  if s.unread side = 0 then fail .empty s
  else ok (countWord ((s.advanceRead side).loopReset.unread side)) (s.advanceRead side).loopReset

/-- PEEKPOS (40_fifo.md R149): never fails, also on an empty side. -/
def execPeekpos (side : Side) (s : State) : Result := ok (s.mem.slotPos (s.curSlot side)) s

/-- PEEKPAT (40_fifo.md R150). -/
def execPeekpat (side : Side) (a : SlotIdx) (s : State) : Result :=
  ok ((s.mem.slotPat (s.curSlot side) a.toNat).setWidth 32) s

/-- PKAPOS (40_fifo.md R151). -/
def execPkapos (side : Side) (s : State) : Result :=
  if s.unread side = 0 then fail .empty s else ok (s.mem.slotPos (s.nxtSlot side)) s

/-- PKAPAT (40_fifo.md R152). -/
def execPkapat (side : Side) (a : SlotIdx) (s : State) : Result :=
  if s.unread side = 0 then fail .empty s else ok ((s.mem.slotPat (s.nxtSlot side) a.toNat).setWidth 32) s

/-- RDSPC (40_fifo.md R153). -/
def execRdspc (side : Side) (s : State) : Result := ok (countWord (s.unread side)) s

/-- RDSPCMIN (40_fifo.md R154). -/
def execRdspcmin (s : State) : Result := ok (countWord (min (s.unread .odd) (s.unread .even))) s

/-- WRSPC (40_fifo.md R155). -/
def execWrspc (s : State) : Result := ok (countWord s.wspace) s

/-- The stored word of a side's current slot if the side contributes, else 0 (40_fifo.md R159). -/
def State.sideWord (s : State) (side : Side) (a : Nat) : Mask :=
  if s.contributes side then s.mem.slotPat (s.curSlot side) a else 0

/-- The merged fire word m of address slot a (40_fifo.md R159). -/
def State.mergedWord (s : State) (a : Nat) : Mask := s.sideWord .odd a ||| s.sideWord .even a

/-- MERGED (40_fifo.md R159). -/
def execMerged (a : SlotIdx) (s : State) : Result := ok ((s.mergedWord a.toNat).setWidth 32) s

/-- SETMODE (40_fifo.md R160): RDATA is 1 if applied, 0 if ignored; the switch moves no cursor (R165). -/
def execSetmode (v : Word) (s : State) : Result :=
  match modeOperand v with
  | some m => ok 1 { s with mode := m }
  | none => ok 0 s

/-- GETMODE (40_fifo.md R161). -/
def execGetmode (s : State) : Result := ok (s.mode.code.setWidth 32) s

/-- GETLOOP (40_fifo.md R162). -/
def execGetloop (s : State) : Result := ok s.loopcnt s

/-- CLEARALL (40_fifo.md R163). -/
def execClearall (s : State) : Result :=
  ok 0 { s.rewind with mem := s.mem.clearSlots s.cfg.A s.cfg.C, w := 1, loopcnt := 0 }

/-- RESETRD (40_fifo.md R164). -/
def execResetrd (s : State) : Result := ok 0 s.rewind

/-- SETACT (40_fifo.md R156). -/
def execSetact (side : Side) (v : Word) (s : State) : Result :=
  match bitOperand v with
  | some b => ok 1 { s with act := s.act.set side b }
  | none => ok 0 s

/-- SETPMODE (40_fifo.md R158). -/
def execSetpmode (v : Word) (s : State) : Result :=
  match printModeOperand v with
  | some m => ok 1 { s with pmode := m }
  | none => ok 0 s

end Sys2Proof.Machine
end

