-- ==== Sys2Proof/Machine/Encoder.lean ====
section
/-! DEFINITION. The encoder commands (41_encoder.md), in opcode order. -/

namespace Sys2Proof.Machine

/-- SETSPLIT (41_encoder.md R204): out-of-range values are clamped; RDATA is the value now held. -/
def execSetsplit (v : Word) (s : State) : Result :=
  ok (countWord (splitOperand v).count) { s with split := splitOperand v }

/-- SETTMODE (41_encoder.md R205). -/
def execSettmode (v : Word) (s : State) : Result :=
  match timingOperand v with
  | some t => ok 1 { s with tmode := t }
  | none => ok 0 s

/-- An encode would write the region a transfer reads: one region and a dispatch armed or in flight (41_encoder.md R209). -/
def State.encodeHazard (s : State) : Bool := !s.cfg.dbuf && decide (s.dstate ≠ .idle)

/-- Encode a pattern into the staging region with the current SPLIT and TMODE, refused with HAZARD where it would write under
a transfer (41_encoder.md R209, R210). -/
def encodeInto (pat : List Mask) (s : State) : Result :=
  if s.encodeHazard then fail .hazard s
  else ok (encodeLengths s.cfg s.split.count s.tmode.num)
    { s with mem := s.mem.writeStage (enc s.cfg pat s.split.count s.tmode.num) }

/-- The merged pattern of the current slots, word a being MERGED a (41_encoder.md R209). -/
def State.mergedPattern (s : State) : List Mask := (List.range s.cfg.A).map s.mergedWord

/-- ENCODE (41_encoder.md R209). -/
def execEncode (s : State) : Result := encodeInto s.mergedPattern s

/-- ENCIN (41_encoder.md R210). -/
def execEncin (s : State) : Result := encodeInto s.mem.inPat s

/-- RDSTG (41_encoder.md R211). -/
def execRdstg (i : Word) (s : State) : Result :=
  if s.cfg.regionPairs ≤ indexOperand i then fail .illegal s
  else ok ((s.mem.stageAt (indexOperand i)).setWidth 32) s

/-- RDACT (41_encoder.md R212). -/
def execRdact (i : Word) (s : State) : Result :=
  if s.cfg.regionPairs ≤ indexOperand i then fail .illegal s
  else ok ((s.mem.activeAt s.cfg.dbuf (indexOperand i)).setWidth 32) s

end Sys2Proof.Machine
end

