-- ==== Sys2Proof/Machine/Dispatch.lean ====
section
/-! DEFINITION. The dispatch of a decoded command to its meaning, one arm per constructor. -/

namespace Sys2Proof.Machine

open Sys2Proof

def exec (i : Instr) (s : State) : Host.Outcome State Fault Refusal :=
  match i with
  | .nop => Sys2Proof.Machine.execNop s
  | .ldpos pos => Sys2Proof.Machine.execLdpos pos s
  | .ldpat a mask => Sys2Proof.Machine.execLdpat a mask s
  | .add => Sys2Proof.Machine.execAdd s
  | .next side => Sys2Proof.Machine.execNext side s
  | .peekpos side => Sys2Proof.Machine.execPeekpos side s
  | .peekpat side a => Sys2Proof.Machine.execPeekpat side a s
  | .pkapos side => Sys2Proof.Machine.execPkapos side s
  | .pkapat side a => Sys2Proof.Machine.execPkapat side a s
  | .rdspc side => Sys2Proof.Machine.execRdspc side s
  | .rdspcmin => Sys2Proof.Machine.execRdspcmin s
  | .wrspc => Sys2Proof.Machine.execWrspc s
  | .merged a => Sys2Proof.Machine.execMerged a s
  | .setmode v => Sys2Proof.Machine.execSetmode v s
  | .getmode => Sys2Proof.Machine.execGetmode s
  | .getloop => Sys2Proof.Machine.execGetloop s
  | .clearall => Sys2Proof.Machine.execClearall s
  | .resetrd => Sys2Proof.Machine.execResetrd s
  | .setact side v => Sys2Proof.Machine.execSetact side v s
  | .setpmode v => Sys2Proof.Machine.execSetpmode v s
  | .setsplit v => Sys2Proof.Machine.execSetsplit v s
  | .settmode v => Sys2Proof.Machine.execSettmode v s
  | .encode => Sys2Proof.Machine.execEncode s
  | .encin => Sys2Proof.Machine.execEncin s
  | .rdstg idx => Sys2Proof.Machine.execRdstg idx s
  | .rdact idx => Sys2Proof.Machine.execRdact idx s
  | .dispatch => Sys2Proof.Machine.execDispatch s
  | .isbusy => Sys2Proof.Machine.execIsbusy s
  | .ackdone => Sys2Proof.Machine.execAckdone s
  | .setirq v => Sys2Proof.Machine.execSetirq v s
  | .rdstat => Sys2Proof.Machine.execRdstat s
  | .rdxfer => Sys2Proof.Machine.execRdxfer s
  | .rdport => Sys2Proof.Machine.execRdport s
  | .rdtmr => Sys2Proof.Machine.execRdtmr s
  | .rdelap => Sys2Proof.Machine.execRdelap s

end Sys2Proof.Machine
end

