-- ==== Sys2Proof/Machine/Tick.lean ====
section
/-! DEFINITION. One tick of the clock agent (42_dispatcher.md R241 to R248): the timer, the dispatcher state machine with the
transfer engine, the settle counter. Every read sees the state at the start of the tick. -/

namespace Sys2Proof.Machine

/-- A trigger edge: the tick starts with TMR = TMR_TOP (42_dispatcher.md R242). -/
def State.edge (s : State) : Bool := decide (s.tmr.toNat = s.cfg.tmrTop)

/-- `tmr'`, the next count of the free-running timer (42_dispatcher.md R241 step 1). -/
def State.tmrNext (s : State) : BitVec 16 := if s.edge then 0 else s.tmr + 1

/-- The settle counter after a tick that completed no transfer, saturating at SETTLE + 1 (42_dispatcher.md R248). -/
def State.elapsedNext (s : State) : BitVec 32 := BitVec.ofNat 32 (min (s.elapsed.toNat + 1) (s.cfg.settle + 1))

/-- The timer and the settle counter of a tick that neither arms nor completes (42_dispatcher.md R241 steps 1 and 3). -/
def State.countTick (s : State) : State := { s with tmr := s.tmrNext, elapsed := s.elapsedNext }

/-- A trigger edge while the channels are disabled sets TRIG_PEND (42_dispatcher.md R243). -/
def State.pendEdge (s : State) : State := { s.countTick with trigPend := s.edge || s.trigPend }

/-- The arming tick restarts the timer, clears TRIG_PEND and PAIR_IDX and enables the channels (42_dispatcher.md R245). -/
def State.arm (s : State) : State :=
  { s.countTick with tmr := 0, trigPend := false, pairIdx := 0, dstate := .inflight }

/-- The transfer step drives one pair onto the ports (42_dispatcher.md R246). -/
def State.drivePair (s : State) : State :=
  { s.countTick with port := s.mem.activeAt s.cfg.dbuf s.pairIdx.toNat, pairIdx := s.pairIdx + 1 }

/-- The completion, in the tick that drives the last pair: it ends the transfer, sets DONE_PEND and restarts the settle
counter (42_dispatcher.md R247, R248). The block has no trap to take; this is all its completion interrupt does (R249). -/
def State.complete (s : State) : State := { s.drivePair with dstate := .idle, donePend := true, elapsed := 0 }

/-- The tick drives the last pair of the region (42_dispatcher.md R247). -/
def State.lastPair (s : State) : Bool := decide (s.pairIdx.toNat + 1 = s.cfg.regionPairs)

/-- One tick (42_dispatcher.md R241). -/
def tick (s : State) : State :=
  match s.dstate with
  | .idle => s.pendEdge
  | .arming => if s.tmrNext.toNat = s.cfg.align then s.arm else s.pendEdge
  | .inflight =>
    if s.edge then
      if s.lastPair then s.complete else s.drivePair
    else s.countTick

/-- n ticks (30_encoding.md R118 `TICK n`). -/
def ticks : Nat → State → State
  | 0, s => s
  | n + 1, s => ticks n (tick s)

end Sys2Proof.Machine
end

