-- ==== Sys2Proof/Machine/Port.lean ====
section
/-! DEFINITION. The command port: a command is decoded and then executed (30_encoding.md R110, R115), and the events of the
three agents (00_scope.md R7). -/

namespace Sys2Proof.Machine

/-- One command transaction: an undecodable command ends with ILLEGAL and writes no state, any other runs (30_encoding.md
R115). -/
def runCommand (cw : CmdWord) (wdata : Word) (s : State) : Result :=
  match decode s.cfg.A cw wdata with
  | .command i => exec i s
  | .illegal _ => fail .illegal s

/-- Perform one event. -/
def perform (e : Event) (s : State) : Result :=
  match e with
  | .command cw wdata => runCommand cw wdata s
  | .tick => .next (tick s)
  | .reset => .next s.applyReset

/-- The command event of an instruction's bits as spec/opcode_table.json numbers them, of which `nbits` are given and the
rest are 0. -/
def commandEvent (nbits w : Nat) : Event :=
  .command (BitVec.ofNat 16 (w % 2 ^ nbits)) (BitVec.ofNat 32 (w % 2 ^ nbits / 2 ^ 16))

end Sys2Proof.Machine
end

