-- ==== Sys2Proof/Machine/Step.lean ====
section
/-! DEFINITION. One step of the machine: the next event of the schedule, performed atomically (00_scope.md R7, 20_memory.md
R88, R93). -/

namespace Sys2Proof.Machine

/-- A step performs the oldest scheduled event: a command, a tick or a reset. With no event scheduled no agent acts and every
element holds its value (60_exceptions.md R314, log entry 3). A block whose configuration breaks 00_scope.md R6 is refused
(92_eei_decisions.md D37, log entry 6). -/
def step (s : State) : Host.Outcome State Fault Refusal :=
  if s.cfg.Wf then
    match s.inputs with
    | [] => .next s
    | e :: rest => perform e { s with inputs := rest }
  else .refused .illFormedConfig

/-- The state with an instruction's bits, of which `nbits` are given and the rest are 0, as the next event: the host issues it
on the command port before anything else happens. CW is bits 15..0 and WDATA is bits 47..16. -/
def State.withFetchWord (s : State) (nbits w : Nat) : State :=
  { s with inputs := commandEvent nbits w :: s.inputs }

end Sys2Proof.Machine
end

