-- ==== Sys2Proof/Safety.lean ====
section
/-! DEFINITION. What counts as a good state and a safe output of the block, in the terms the statements use. -/

namespace Sys2Proof.Machine

/-- The ranges the spec gives the state elements (10_state.md R33 to R53), with what ties them together. Every state a block
reaches from reset meets it. -/
structure State.Inv (s : State) : Prop where
  /-- The configuration is well formed (00_scope.md R6). -/
  cfgWf : s.cfg.Wf
  /-- The storage has its form (10_state.md R33, R41, R44, R45). -/
  memWf : s.mem.wf s.cfg
  /-- W is a slot index (10_state.md R34). -/
  wLt : s.w.toNat < s.cfg.C
  /-- R[0] is a slot index (10_state.md R35). -/
  oddLt : s.r.odd.toNat < s.cfg.C
  /-- R[1] is a slot index (10_state.md R35). -/
  evenLt : s.r.even.toNat < s.cfg.C
  /-- TMR is in 0..TMR_TOP (10_state.md R48). -/
  tmrLe : s.tmr.toNat ≤ s.cfg.tmrTop
  /-- ELAPSED is in 0..SETTLE+1 (10_state.md R50). -/
  elapsedLe : s.elapsed.toNat ≤ s.cfg.settle + 1
  /-- PAIR_IDX is in 0..REGION_PAIRS (10_state.md R47). -/
  pairLe : s.pairIdx.toNat ≤ s.cfg.regionPairs
  /-- In flight, a pair is still to be driven (42_dispatcher.md R247). -/
  pairLt : s.dstate = .inflight → s.pairIdx.toNat < s.cfg.regionPairs
  /-- An armed or in-flight transfer began after the settle window (42_dispatcher.md R250). -/
  settled : s.dstate ≠ .idle → s.cfg.settle < s.elapsed.toNat
  /-- A code other than OK comes with RDATA = 0 (60_exceptions.md R301). -/
  answered : ∀ a ∈ s.response, a.rc ≠ .ok → a.rdata = 0

/-- The number of primitive lines a pair energizes (41_encoder.md R208 item 3). -/
def primCount (c : Config) (w : Pair) : Nat := (List.range c.P).countP fun p => w.getLsbD (c.pmap.prim.getD p 0)

/-- A pair never carries the address clock together with a primitive line or the primitive clock (41_encoder.md R208
item 4). -/
def SafePair (c : Config) (w : Pair) : Prop :=
  w.getLsbD c.pmap.aclk = true → primCount c w = 0 ∧ w.getLsbD c.pmap.pclk = false

/-- Both regions and the ports carry safe pairs only, and the last pair of each region is zero (41_encoder.md R208 items 4
and 5). -/
structure State.DriveSafe (s : State) : Prop where
  stage : ∀ w ∈ s.mem.stage, SafePair s.cfg w
  active : ∀ w ∈ s.mem.active s.cfg.dbuf, SafePair s.cfg w
  port : SafePair s.cfg s.port
  stageEnd : s.mem.stageAt (s.cfg.regionPairs - 1) = 0
  activeEnd : s.mem.activeAt s.cfg.dbuf (s.cfg.regionPairs - 1) = 0

/-- The tick arms the transfer: ARMING and the timer's next count is ALIGN (42_dispatcher.md R245). -/
abbrev State.Arms (s : State) : Prop := s.dstate = .arming ∧ (s.tmr.toNat + 1) % s.cfg.period = s.cfg.align

/-- The tick moves a pair: INFLIGHT and a trigger edge (42_dispatcher.md R246). -/
abbrev State.Moves (s : State) : Prop := s.dstate = .inflight ∧ s.tmr.toNat = s.cfg.tmrTop

/-- The tick completes the transfer: it moves the last pair (42_dispatcher.md R247). -/
abbrev State.Completes (s : State) : Prop := s.Moves ∧ s.pairIdx.toNat + 1 = s.cfg.regionPairs

/-- The number of ticks from an accepted DISPATCH with TMR = t0 to the arming tick,
`((ALIGN - t0 - 1) mod N) + 1` with N = TMR_TOP + 1 (42_dispatcher.md R262). -/
def armDelay (c : Config) (t0 : Nat) : Nat :=
  (((c.align : Int) - (t0 : Int) - 1) % (c.period : Int)).toNat + 1

/-- The S field of a command word (30_encoding.md R111). -/
def sideBits : Side → CmdWord
  | .odd => 0x0000#16
  | .even => 0x0200#16

/-- The IDX field of a command word, `IDX<<4` (30_encoding.md R113). -/
def idxBits (a : SlotIdx) : CmdWord := a.setWidth 16 <<< 4

/-- The causes of ILLEGAL, with the fields of CW as numbers: OP = CW / 1024, S = CW / 512 mod 2, IDX = CW / 16 mod 32,
RSV = CW mod 16 (60_exceptions.md R302, items 1 to 6). -/
def IllegalCause (c : Config) (cw : CmdWord) (wdata : Word) : Prop :=
  (0x14 ≤ cw.toNat / 1024 ∧ cw.toNat / 1024 ≤ 0x1F) ∨ (0x26 ≤ cw.toNat / 1024 ∧ cw.toNat / 1024 ≤ 0x2F) ∨
    0x39 ≤ cw.toNat / 1024 ∨
  cw.toNat % 16 ≠ 0 ∨
  (cw.toNat / 512 % 2 ≠ 0 ∧ cw.toNat / 1024 ∉ [0x04, 0x05, 0x06, 0x07, 0x08, 0x09, 0x12]) ∨
  (cw.toNat / 16 % 32 ≠ 0 ∧ cw.toNat / 1024 ∉ [0x02, 0x06, 0x08, 0x0C]) ∨
  (c.A ≤ cw.toNat / 16 % 32 ∧ cw.toNat / 1024 ∈ [0x02, 0x06, 0x08, 0x0C]) ∨
  (c.regionPairs ≤ wdata.toNat ∧ cw.toNat / 1024 ∈ [0x24, 0x25])

end Sys2Proof.Machine
end

