-- ==== Sys2Proof/Certificates/Slice0/Obligations.lean ====
section
/-! DEFINITION. The statements about the block, by the numbered rules of spec/. A statement about a command gives the whole next
state: whatever a record update does not name is unchanged, and `State.answer` writes nothing but the answer of the command
port. A statement that rests on a rule the spec marks as derived, or on a choice of the model, says so. -/

open Sys2Proof Sys2Proof.Machine

/-! ### Decoding and the step -/

/-- Derived: the encoder writes the words R113 lays out, and decoding them gives the command back. -/
def Obligations.DecodeEncodeRoundTrip : Prop :=
  ∀ (A : Nat) (i : Instr), i.Wf A → decode A (encode i).1 (encode i).2 = .command i

/-- Derived: an accepted command word is the one encoding of its command, so no bit of it is dropped, and the command carries
the data word as it came. -/
def Obligations.AcceptedWordIsItsEncoding : Prop :=
  ∀ (A : Nat) (cw : CmdWord) (wd : Word) (i : Instr), decode A cw wd = .command i →
    encodeCw i = cw ∧ i.Wf A ∧ ∀ d ∈ i.data, d = wd

/-- R302: a command ends with ILLEGAL exactly for the six listed causes, and then nothing but the answer is written. -/
def Obligations.IllegalExactlyForListedCauses : Prop :=
  ∀ (s : State) (cw : CmdWord) (wd : Word), s.Inv →
    (IllegalCause s.cfg cw wd → perform (.command cw wd) s = .next (s.answer .illegal 0)) ∧
    (∀ t, perform (.command cw wd) s = .next t → (∃ d, t.response = some { rc := .illegal, rdata := d }) →
      IllegalCause s.cfg cw wd)

/-- Derived (sanity): a few words of the opcode map, in blocks of every size that has the slot named. -/
def Obligations.SampleWordsDecode : Prop :=
  ∀ (A : Nat) (wd : Word), 22 ≤ A →
    decode A 0x0000#16 wd = .command .nop ∧
    decode A 0x0400#16 wd = .command (.ldpos wd) ∧
    decode A 0x0950#16 wd = .command (.ldpat 21 wd) ∧
    decode A 0x1200#16 wd = .command (.next .even) ∧
    decode A 0x1810#16 wd = .command (.peekpat .odd 1) ∧
    decode A 0x4A00#16 wd = .command (.setact .even wd) ∧
    decode A 0x8800#16 wd = .command .encode ∧
    decode A 0xC000#16 wd = .command .dispatch ∧
    decode A 0xE000#16 wd = .command .rdelap

/-- Derived: a step on a state whose next event is a command that decodes to a command of the map is that command's
execution, with the event taken off the schedule. That the schedule is part of the state is the model's choice (log entry 3). -/
def Obligations.StepRunsTheDecodedCommand : Prop :=
  ∀ (s : State) (cw : CmdWord) (wd : Word) (rest : List Event) (i : Instr), s.cfg.Wf →
    s.inputs = .command cw wd :: rest → decode s.cfg.A cw wd = .command i →
    step s = exec i { s with inputs := rest }

/-- Derived: the steps of the other agents, and the step with nothing scheduled, which is the model's choice (log entry 3). -/
def Obligations.StepPerformsTicksAndResets : Prop :=
  ∀ (s : State) (rest : List Event), s.cfg.Wf →
    (s.inputs = .tick :: rest → step s = .next (tick { s with inputs := rest })) ∧
    (s.inputs = .reset :: rest → step s = .next { State.resetWith s.cfg with inputs := rest }) ∧
    (s.inputs = [] → step s = .next s)

/-- Derived (R6 and its decision): a configuration that breaks any one check is neither built nor run. -/
def Obligations.IllFormedConfigurationRefused : Prop :=
  ∀ (s : State), (¬ s.cfg.SizesOk ∨ ¬ s.cfg.RegionOk ∨ ¬ s.cfg.TimerOk ∨ ¬ s.cfg.SettleOk ∨ ¬ s.cfg.SplitOk ∨
      ¬ s.cfg.PortMapOk) →
    powerUp s.cfg = .refused .illFormedConfig ∧ step s = .refused .illFormedConfig

/-- Derived (R300): no event traps, faults or halts a block: every step of a well-formed block answers a next state, and the
configuration it was built with stays. -/
def Obligations.NoStepTraps : Prop :=
  ∀ (s : State), s.cfg.Wf → ∃ t, step s = .next t ∧ t.cfg = s.cfg

/-! ### FIFO commands -/

/-- R141: the unread count. -/
def Obligations.UnreadCountIsRingDistance : Prop :=
  ∀ (s : State) (side : Side), s.Inv →
    s.unread side < s.cfg.C ∧
    ((s.r.get side).toNat + 1 + s.unread side) % s.cfg.C = s.w.toNat ∧
    (s.unread side = 0 ↔ s.w.toNat = ((s.r.get side).toNat + 1) % s.cfg.C) ∧
    (s.unread side = s.cfg.C - 1 ↔ s.w = s.r.get side)

/-- R142: the write space by mode, its range and where it is 0. -/
def Obligations.WriteSpaceByMode : Prop :=
  ∀ (s : State), s.Inv →
    (s.mode = .clearing →
      s.wspace + max (s.unread .odd) (s.unread .even) = s.cfg.C - 1 ∧
      (s.wspace = 0 ↔ s.w = s.r.odd ∨ s.w = s.r.even)) ∧
    (s.mode ≠ .clearing → s.wspace + s.w.toNat = s.cfg.C ∧ 1 ≤ s.wspace)

/-- R144: LDPOS. -/
def Obligations.LoadPositionOperand : Prop :=
  ∀ (s : State) (pos : Word),
    (∀ A, decode A 0x0400#16 pos = .command (.ldpos pos)) ∧
    exec (.ldpos pos) s = .next (State.answer { s with mem := { s.mem with inPos := pos } } .ok 0)

/-- R145: LDPAT. -/
def Obligations.LoadPatternOperandWord : Prop :=
  ∀ (s : State) (a : SlotIdx) (d : Word), s.Inv →
    (s.cfg.A ≤ a.toNat → ∃ e, decode s.cfg.A (0x0800#16 ||| idxBits a) d = .illegal e) ∧
    (a.toNat < s.cfg.A →
      decode s.cfg.A (0x0800#16 ||| idxBits a) d = .command (.ldpat a d) ∧
      ∃ pat : List Mask,
        exec (.ldpat a d) s = .next (State.answer { s with mem := { s.mem with inPat := pat } } .ok 0) ∧
        (pat.getD a.toNat 0).toNat = d.toNat % 2 ^ s.cfg.P ∧
        (∀ b, b ≠ a.toNat → pat.getD b 0 = s.mem.inPatAt b) ∧
        PatternOk s.cfg pat)

/-- R147: ADD. -/
def Obligations.AddAppendsOperandEntry : Prop :=
  ∀ (s : State), s.Inv →
    (∀ A wd, decode A 0x0C00#16 wd = .command .add) ∧
    (s.wspace = 0 → exec .add s = .next (s.answer .full 0)) ∧
    (s.mode ≠ .clearing → s.wspace ≠ 0) ∧
    (s.wspace ≠ 0 → ∃ (slots : List Slot) (w' : Cursor) (t : State),
      t = { s with mem := { s.mem with slots := slots }, w := w' } ∧
      exec .add s = .next (t.answer .ok (BitVec.ofNat 32 t.wspace)) ∧
      t.mem.slotAt s.w.toNat = { pos := s.mem.inPos, pat := s.mem.inPat } ∧
      (∀ i, i ≠ s.w.toNat → t.mem.slotAt i = s.mem.slotAt i) ∧ slots.length = s.cfg.C ∧
      w'.toNat = (s.w.toNat + 1) % s.cfg.C)

/-- R148: NEXT. A side ends empty exactly when it had one unread entry, so the loop reset happens in LOOPING mode when side s
had one unread entry and the other none. -/
def Obligations.NextAdvancesOneSide : Prop :=
  ∀ (s : State) (side : Side), s.Inv →
    (∀ A wd, decode A (0x1000#16 ||| sideBits side) wd = .command (.next side)) ∧
    (s.unread side = 0 → exec (.next side) s = .next (s.answer .empty 0)) ∧
    (s.unread side = 1 → s.mode = .looping → (∀ other, other ≠ side → s.unread other = 0) →
      exec (.next side) s = .next (State.answer
        { s with r := { odd := 0, even := 0 }, loopcnt := BitVec.ofNat 32 (s.loopcnt.toNat + 1) } .ok
        (BitVec.ofNat 32 ((s.w.toNat + s.cfg.C - 1) % s.cfg.C)))) ∧
    (s.unread side ≠ 0 →
      ¬ (s.unread side = 1 ∧ s.mode = .looping ∧ ∀ other, other ≠ side → s.unread other = 0) →
      ∃ r : Sides Cursor,
        exec (.next side) s = .next (State.answer { s with r := r } .ok (BitVec.ofNat 32 (s.unread side - 1))) ∧
        (r.get side).toNat = ((s.r.get side).toNat + 1) % s.cfg.C ∧
        ∀ other, other ≠ side → r.get other = s.r.get other)

/-- R149 and R150: PEEKPOS and PEEKPAT, which never fail on an empty side. -/
def Obligations.PeekReadsCurrentSlot : Prop :=
  ∀ (s : State) (side : Side) (a : SlotIdx),
    (∀ A wd, decode A (0x1400#16 ||| sideBits side) wd = .command (.peekpos side)) ∧
    exec (.peekpos side) s = .next (s.answer .ok (s.mem.slotAt (s.r.get side).toNat).pos) ∧
    (∀ A wd, a.toNat < A → decode A (0x1800#16 ||| sideBits side ||| idxBits a) wd = .command (.peekpat side a)) ∧
    (∀ A wd, A ≤ a.toNat → ∃ e, decode A (0x1800#16 ||| sideBits side ||| idxBits a) wd = .illegal e) ∧
    exec (.peekpat side a) s =
      .next (s.answer .ok (((s.mem.slotAt (s.r.get side).toNat).pat.getD a.toNat 0).setWidth 32))

/-- R151 and R152: PKAPOS and PKAPAT. -/
def Obligations.PeekAheadReadsNextSlotOrEmpty : Prop :=
  ∀ (s : State) (side : Side) (a : SlotIdx),
    (∀ A wd, decode A (0x1C00#16 ||| sideBits side) wd = .command (.pkapos side)) ∧
    (∀ A wd, a.toNat < A → decode A (0x2000#16 ||| sideBits side ||| idxBits a) wd = .command (.pkapat side a)) ∧
    (∀ A wd, A ≤ a.toNat → ∃ e, decode A (0x2000#16 ||| sideBits side ||| idxBits a) wd = .illegal e) ∧
    (s.unread side = 0 → exec (.pkapos side) s = .next (s.answer .empty 0) ∧
      exec (.pkapat side a) s = .next (s.answer .empty 0)) ∧
    (s.unread side ≠ 0 →
      exec (.pkapos side) s =
        .next (s.answer .ok (s.mem.slotAt (((s.r.get side).toNat + 1) % s.cfg.C)).pos) ∧
      exec (.pkapat side a) s =
        .next (s.answer .ok (((s.mem.slotAt (((s.r.get side).toNat + 1) % s.cfg.C)).pat.getD a.toNat 0).setWidth 32)))

/-- R153, R154 and R155: the count commands answer the counts themselves, as unsigned 32-bit numbers. -/
def Obligations.CountCommandsAnswerCounts : Prop :=
  ∀ (s : State), s.Inv →
    (∀ A wd, decode A 0x2400#16 wd = .command (.rdspc .odd) ∧ decode A 0x2600#16 wd = .command (.rdspc .even) ∧
      decode A 0x2800#16 wd = .command .rdspcmin ∧ decode A 0x2C00#16 wd = .command .wrspc) ∧
    (∀ side, ∃ d : Word, exec (.rdspc side) s = .next (s.answer .ok d) ∧ d.toNat = s.unread side) ∧
    (∃ d : Word, exec .rdspcmin s = .next (s.answer .ok d) ∧ d.toNat = min (s.unread .odd) (s.unread .even)) ∧
    (∃ d : Word, exec .wrspc s = .next (s.answer .ok d) ∧ d.toNat = s.wspace)

/-- R156 and R158: SETACT and SETPMODE, the two settings of the side gate. -/
def Obligations.SideGateSettersApplyOrIgnore : Prop :=
  ∀ (s : State) (side : Side) (v : Word),
    (∀ A, decode A (0x4800#16 ||| sideBits side) v = .command (.setact side v)) ∧
    (v.toNat ≤ 1 → ∃ act : Sides Bool, exec (.setact side v) s = .next (State.answer { s with act := act } .ok 1) ∧
      act.get side = v.getLsbD 0 ∧ ∀ other, other ≠ side → act.get other = s.act.get other) ∧
    (2 ≤ v.toNat → exec (.setact side v) s = .next (s.answer .ok 0)) ∧
    (∀ A, decode A 0x4C00#16 v = .command (.setpmode v)) ∧
    (v.toNat ≤ 2 → ∃ m : PrintMode, m.code.toNat = v.toNat ∧
      exec (.setpmode v) s = .next (State.answer { s with pmode := m } .ok 1)) ∧
    (3 ≤ v.toNat → exec (.setpmode v) s = .next (s.answer .ok 0))

/-- R159: MERGED is the union, bit by bit, of the current words of the sides the gate lets through, zero-extended. -/
def Obligations.MergedIsGatedUnion : Prop :=
  ∀ (s : State) (a : SlotIdx), s.Inv →
    (∀ wd, a.toNat < s.cfg.A → decode s.cfg.A (0x3000#16 ||| idxBits a) wd = .command (.merged a)) ∧
    (∀ wd, s.cfg.A ≤ a.toNat → ∃ e, decode s.cfg.A (0x3000#16 ||| idxBits a) wd = .illegal e) ∧
    (s.contributes .odd = true ↔ s.act.odd = true ∧ s.pmode ≠ .evenOnly) ∧
    (s.contributes .even = true ↔ s.act.even = true ∧ s.pmode ≠ .oddOnly) ∧
    ∃ m : Word, exec (.merged a) s = .next (s.answer .ok m) ∧ m.toNat < 2 ^ s.cfg.P ∧
      ∀ p, m.getLsbD p = true ↔ ∃ side, s.contributes side = true ∧
        ((s.mem.slotAt (s.r.get side).toNat).pat.getD a.toNat 0).getLsbD p = true

/-- R160: SETMODE changes the mode and nothing else. -/
def Obligations.SetModeAppliesOrIgnores : Prop :=
  ∀ (s : State) (v : Word),
    (∀ A, decode A 0x3400#16 v = .command (.setmode v)) ∧
    (v.toNat ≤ 2 → ∃ m : Mode, m.code.toNat = v.toNat ∧
      exec (.setmode v) s = .next (State.answer { s with mode := m } .ok 1)) ∧
    (3 ≤ v.toNat → exec (.setmode v) s = .next (s.answer .ok 0))

/-- R161 and R162: GETMODE and GETLOOP. -/
def Obligations.ModeAndLoopCountAreRead : Prop :=
  ∀ (s : State),
    (∀ A wd, decode A 0x3800#16 wd = .command .getmode ∧ decode A 0x3C00#16 wd = .command .getloop) ∧
    exec .getmode s = .next (s.answer .ok (s.mode.code.setWidth 32)) ∧
    exec .getloop s = .next (s.answer .ok s.loopcnt)

/-- R163: CLEARALL. -/
def Obligations.ClearAllZeroesTheFifo : Prop :=
  ∀ (s : State),
    (∀ A wd, decode A 0x4000#16 wd = .command .clearall) ∧
    ∃ slots : List Slot,
      exec .clearall s = .next (State.answer { s with
        mem := { s.mem with slots := slots }, w := 1, r := { odd := 0, even := 0 }, loopcnt := 0 } .ok 0) ∧
      slots.length = s.cfg.C ∧
      ∀ i, i < s.cfg.C → ∃ e ∈ slots[i]?, e.pos = 0 ∧ e.pat.length = s.cfg.A ∧ ∀ m ∈ e.pat, m = 0

/-- R164: RESETRD. -/
def Obligations.ResetReadRewindsCursors : Prop :=
  ∀ (s : State), s.Inv →
    (∀ A wd, decode A 0x4400#16 wd = .command .resetrd) ∧
    ∃ t, exec .resetrd s = .next (t.answer .ok 0) ∧ t = { s with r := { odd := 0, even := 0 } } ∧
      ∀ side, t.unread side = (s.w.toNat + s.cfg.C - 1) % s.cfg.C

/-- Derived (R143): an ADD in CLEARING mode writes no slot a side is on or has not read. -/
def Obligations.ClearingAddKeepsUnreadEntries : Prop :=
  ∀ (s t : State), s.Inv → s.mode = .clearing → (∀ side, s.unread side ≤ s.cfg.C - 2) → exec .add s = .next t →
    ∀ side k, k ≤ s.unread side →
      t.mem.slotAt (((s.r.get side).toNat + k) % s.cfg.C) = s.mem.slotAt (((s.r.get side).toNat + k) % s.cfg.C) ∧
      t.unread side = s.unread side + 1

/-- Derived (R166): outside CLEARING mode an ADD on a full side is accepted, overwrites that side's current slot and leaves the side
with nothing counted as unread. -/
def Obligations.StaticAddOverwritesFullSide : Prop :=
  ∀ (s : State) (side : Side), s.Inv → s.mode ≠ .clearing → s.w = s.r.get side →
    s.unread side = s.cfg.C - 1 ∧ 1 ≤ s.wspace ∧
    ∃ t, exec .add s = .next t ∧ (∃ d, t.response = some { rc := .ok, rdata := d }) ∧ t.unread side = 0 ∧
      t.mem.slotAt (t.r.get side).toNat = { pos := s.mem.inPos, pat := s.mem.inPat }

/-! ### Encoder -/

/-- R201: which bits of a byte pair are set. -/
def Obligations.PairCarriesMaskAndClocks : Prop :=
  ∀ (c : Config) (m : Mask) (ac pc : Bool) (i : Nat), c.PortMapOk →
    ((pw c m ac pc).getLsbD i = true ↔
      (∃ p, p < c.P ∧ m.getLsbD p = true ∧ c.pmap.prim[p]? = some i) ∨ (ac = true ∧ i = c.pmap.aclk) ∨
        (pc = true ∧ i = c.pmap.pclk))

/-- R202: the pairs of the default port map. -/
def Obligations.DefaultPortMapPairs : Prop :=
  ∀ (c : Config) (m : Mask) (ac pc : Bool), c.P ≤ 14 → c.pmap = defaultPortMap c.P → MaskFits c.P m →
    pw c m ac pc = m ||| (if ac then 0x4000#16 else 0#16) ||| (if pc then 0x8000#16 else 0#16)

/-- R203: the default split table for every P, its values for P = 14, and that they meet check 5 of R6. -/
def Obligations.DefaultSplitTableMasks : Prop :=
  (∀ P k j p, P ≤ 14 → k ∈ [1, 2, 3, 4] → j < k →
    ((((defaultSplitTable P).getD (k - 1) []).getD j 0).getLsbD p = true ↔ p < P ∧ p % k = j)) ∧
  defaultSplitTable 14 = [[0x3FFF#16], [0x1555#16, 0x2AAA#16], [0x1249#16, 0x2492#16, 0x0924#16],
    [0x1111#16, 0x2222#16, 0x0444#16, 0x0888#16]] ∧
  (∀ c : Config, c.P = 14 → c.splitTable = defaultSplitTable 14 → c.SplitOk)

/-- R204: SETSPLIT clamps. -/
def Obligations.SetSplitClamps : Prop :=
  ∀ (s : State) (v : Word),
    (∀ A, decode A 0x8000#16 v = .command (.setsplit v)) ∧
    ∃ k : Split, k.count = max 1 (min 4 v.toNat) ∧
      exec (.setsplit v) s = .next (State.answer { s with split := k } .ok (BitVec.ofNat 32 k.count))

/-- R205: SETTMODE. -/
def Obligations.SetTimingAppliesOrIgnores : Prop :=
  ∀ (s : State) (v : Word),
    (∀ A, decode A 0x8400#16 v = .command (.settmode v)) ∧
    (v.toNat ≤ 1 → ∃ t : TimingMode, t.num = v.toNat ∧
      exec (.settmode v) s = .next (State.answer { s with tmode := t } .ok 1)) ∧
    (2 ≤ v.toNat → exec (.settmode v) s = .next (s.answer .ok 0))

/-- R206: where every pair of the region stands. -/
def Obligations.EncodedRegionLayout : Prop :=
  ∀ (c : Config) (pat : List Mask) (k t : Nat), c.Wf → 1 ≤ k → k ≤ 4 → t ≤ 1 →
    (enc c pat k t).length = c.regionPairs ∧
    (∀ a, a < c.A →
      (enc c pat k t)[a * (2 + k * (3 + t))]? = some (pw c 0 true false) ∧
      (enc c pat k t)[a * (2 + k * (3 + t)) + 1]? = some (pw c 0 false false) ∧
      ∀ j, j < k → ∃ o m, o = a * (2 + k * (3 + t)) + 2 + j * (3 + t) ∧ m = pat.getD a 0 &&& c.splitMask k j ∧
        (enc c pat k t)[o]? = some (pw c m false false) ∧
        (enc c pat k t)[o + 1]? = some (pw c m false true) ∧
        (t = 1 → (enc c pat k t)[o + 2]? = some (pw c m false true)) ∧
        (enc c pat k t)[o + 2 + t]? = some (pw c 0 false false)) ∧
    ∀ i, c.A * (2 + k * (3 + t)) ≤ i → i < c.regionPairs → (enc c pat k t)[i]? = some 0

/-- Derived (R208 item 2): the phase masks of a word are disjoint and their union is the word. -/
def Obligations.PhasesPartitionTheWord : Prop :=
  ∀ (c : Config) (k : Nat) (word : Mask), c.Wf → 1 ≤ k → k ≤ 4 → MaskFits c.P word →
    (∀ i j, i < k → j < k → i ≠ j → (word &&& c.splitMask k i) &&& (word &&& c.splitMask k j) = 0) ∧
    ∀ p, word.getLsbD p = true ↔ ∃ j, j < k ∧ (word &&& c.splitMask k j).getLsbD p = true

/-- Derived (R208 items 3, 4 and 5): no pair energizes more than ⌈P/k⌉ lines, the address clock comes alone, and the last pair
of the content and every pair after it are zero. -/
def Obligations.EncodedPairsAreSafe : Prop :=
  ∀ (c : Config) (pat : List Mask) (k t : Nat), c.Wf → 1 ≤ k → k ≤ 4 → t ≤ 1 →
    (∀ w ∈ enc c pat k t, primCount c w ≤ (c.P + k - 1) / k ∧ SafePair c w) ∧
    (enc c pat k t)[c.A * (2 + k * (3 + t)) - 1]? = some 0 ∧
    (enc c pat k t)[c.regionPairs - 1]? = some 0

/-- R209: ENCODE stages the encoding of the pattern whose words MERGED answers, or refuses with HAZARD. -/
def Obligations.EncodeStagesMergedPattern : Prop :=
  ∀ (s : State), s.Inv →
    (∀ A wd, decode A 0x8800#16 wd = .command .encode) ∧
    (s.cfg.dbuf = false → s.dstate ≠ .idle → exec .encode s = .next (s.answer .hazard 0)) ∧
    (s.cfg.dbuf = true ∨ s.dstate = .idle → ∃ (pat : List Mask) (d : Word),
      pat.length = s.cfg.A ∧
      (∀ a, a < s.cfg.A →
        exec (.merged (BitVec.ofNat 5 a)) s = .next (s.answer .ok ((pat.getD a 0).setWidth 32))) ∧
      exec .encode s = .next (State.answer
        { s with mem := { s.mem with stage := enc s.cfg pat s.split.count s.tmode.num } } .ok d) ∧
      d.toNat = s.cfg.A * (2 + s.split.count * (3 + s.tmode.num)) * 2 ^ 16 + s.cfg.regionPairs)

/-- R210: ENCIN stages the encoding of the pattern operand, or refuses with HAZARD. -/
def Obligations.EncinStagesOperandPattern : Prop :=
  ∀ (s : State), s.Inv →
    (∀ A wd, decode A 0x8C00#16 wd = .command .encin) ∧
    (s.cfg.dbuf = false → s.dstate ≠ .idle → exec .encin s = .next (s.answer .hazard 0)) ∧
    (s.cfg.dbuf = true ∨ s.dstate = .idle → ∃ d : Word,
      exec .encin s = .next (State.answer
        { s with mem := { s.mem with stage := enc s.cfg s.mem.inPat s.split.count s.tmode.num } } .ok d) ∧
      d.toNat = s.cfg.A * (2 + s.split.count * (3 + s.tmode.num)) * 2 ^ 16 + s.cfg.regionPairs)

/-- R211 and R212: RDSTG and RDACT, over the whole data word as the index; with DBUF = 0 they read one cell. -/
def Obligations.RegionReadsAnswerOnePair : Prop :=
  ∀ (s : State) (i : Word), s.Inv →
    (∀ A, decode A 0x9000#16 i = .command (.rdstg i) ∧ decode A 0x9400#16 i = .command (.rdact i)) ∧
    (s.cfg.regionPairs ≤ i.toNat →
      exec (.rdstg i) s = .next (s.answer .illegal 0) ∧ exec (.rdact i) s = .next (s.answer .illegal 0)) ∧
    (i.toNat < s.cfg.regionPairs → ∃ x y : Pair,
      s.mem.stage[i.toNat]? = some x ∧ exec (.rdstg i) s = .next (s.answer .ok (x.setWidth 32)) ∧
      exec (.rdact i) s = .next (s.answer .ok (y.setWidth 32)) ∧
      (s.cfg.dbuf = true → s.mem.activeBuf[i.toNat]? = some y) ∧ (s.cfg.dbuf = false → y = x))

/-! ### Dispatcher and status commands -/

/-- R250: DISPATCH refuses while busy; accepted, it copies the staging region, clears TRIG_PEND and arms. -/
def Obligations.DispatchCopiesAndArms : Prop :=
  ∀ (s : State),
    (∀ A wd, decode A 0xC000#16 wd = .command .dispatch) ∧
    (s.busy = true → exec .dispatch s = .next (s.answer .busy 0)) ∧
    (s.busy = false → ∃ act : List Pair,
      exec .dispatch s = .next (State.answer
        { s with mem := { s.mem with activeBuf := act }, trigPend := false, dstate := .arming } .ok 0) ∧
      (s.cfg.dbuf = true → act = s.mem.stage) ∧ (s.cfg.dbuf = false → act = s.mem.activeBuf))

/-- R244 and R252: ISBUSY answers 1 exactly while a transfer is armed or in flight or the settle window has not passed. -/
def Obligations.IsBusyAnswersBusy : Prop :=
  ∀ (s : State),
    (∀ A wd, decode A 0xC400#16 wd = .command .isbusy) ∧
    (s.dstate ≠ .idle ∨ s.elapsed.toNat ≤ s.cfg.settle → exec .isbusy s = .next (s.answer .ok 1)) ∧
    (s.dstate = .idle → s.cfg.settle < s.elapsed.toNat → exec .isbusy s = .next (s.answer .ok 0))

/-- R253 and R254: ACKDONE and SETIRQ, and the interrupt line they drive; busy() does not depend on them. -/
def Obligations.AckDoneAndSetIrqDriveTheLine : Prop :=
  ∀ (s : State) (v : Word),
    (∀ A wd, decode A 0xC800#16 wd = .command .ackdone) ∧
    (∃ t, exec .ackdone s = .next (t.answer .ok 0) ∧ t = { s with donePend := false } ∧ t.irq = false ∧
      t.busy = s.busy) ∧
    (∀ A, decode A 0xCC00#16 v = .command (.setirq v)) ∧
    (v.toNat ≤ 1 → ∃ t, exec (.setirq v) s = .next (t.answer .ok 1) ∧ t = { s with irqEn := v.getLsbD 0 } ∧
      (t.irq = true ↔ s.donePend = true ∧ v.toNat = 1)) ∧
    (2 ≤ v.toNat → exec (.setirq v) s = .next (s.answer .ok 0))

/-- R255: RDSTAT and the layout of STAT in R56. -/
def Obligations.StatusRegisterLayout : Prop :=
  ∀ (s : State),
    (∀ A wd, decode A 0xD000#16 wd = .command .rdstat) ∧
    ∃ st : Word, exec .rdstat s = .next (s.answer .ok st) ∧
      st.extractLsb' 0 2 = s.mode.code ∧ st.extractLsb' 2 2 = s.pmode.code ∧
      st.getLsbD 4 = s.act.odd ∧ st.getLsbD 5 = s.act.even ∧
      (st.extractLsb' 6 3).toNat = s.split.count ∧ (st.extractLsb' 9 1).toNat = s.tmode.num ∧
      st.extractLsb' 10 2 = s.dstate.code ∧ st.getLsbD 12 = s.busy ∧
      st.getLsbD 13 = s.donePend ∧ st.getLsbD 14 = s.irqEn ∧ st.getLsbD 15 = s.trigPend ∧
      st.getLsbD 16 = s.cfg.dbuf ∧ st.getLsbD 17 = (s.donePend && s.irqEn) ∧
      ∀ i, 18 ≤ i → st.getLsbD i = false

/-- R256, R257, R258, R259 and R260: the readbacks and NOP. -/
def Obligations.ReadbacksAnswerAndNopDoesNothing : Prop :=
  ∀ (s : State),
    (∀ A wd, decode A 0xD400#16 wd = .command .rdxfer ∧ decode A 0xD800#16 wd = .command .rdport ∧
      decode A 0xDC00#16 wd = .command .rdtmr ∧ decode A 0xE000#16 wd = .command .rdelap ∧
      decode A 0x0000#16 wd = .command .nop) ∧
    (∃ x p t : Word,
      exec .rdxfer s = .next (s.answer .ok x) ∧ x.toNat = s.pairIdx.toNat ∧
      exec .rdport s = .next (s.answer .ok p) ∧ p.toNat = s.port.toNat ∧
      exec .rdtmr s = .next (s.answer .ok t) ∧ t.toNat = s.tmr.toNat) ∧
    exec .rdelap s = .next (s.answer .ok s.elapsed) ∧
    exec .nop s = .next (s.answer .ok 0)

/-! ### The tick -/

/-- R241: one tick, whole, in the order of the rule. -/
def Obligations.TickInOrder : Prop :=
  ∀ (s : State), s.Inv → tick s = { s with
    tmr := if s.Arms then 0 else BitVec.ofNat 16 ((s.tmr.toNat + 1) % s.cfg.period)
    trigPend := if s.Arms then false else if s.dstate ≠ .inflight ∧ s.tmr.toNat = s.cfg.tmrTop then true else s.trigPend
    pairIdx := if s.Arms then 0 else if s.Moves then BitVec.ofNat 16 (s.pairIdx.toNat + 1) else s.pairIdx
    dstate := if s.Arms then .inflight else if s.Completes then .idle else s.dstate
    port := if s.Moves then s.mem.activeAt s.cfg.dbuf s.pairIdx.toNat else s.port
    donePend := if s.Completes then true else s.donePend
    elapsed := if s.Completes then 0 else BitVec.ofNat 32 (min (s.elapsed.toNat + 1) (s.cfg.settle + 1)) }

/-- Derived (R242, R243): the timer wraps at TMR_TOP or restarts at arming; a trigger edge while no transfer is in flight, other than
in the arming tick, sets TRIG_PEND, arming clears it, and nothing else in a tick writes it. -/
def Obligations.TimerAndPendingTrigger : Prop :=
  ∀ (s : State), s.Inv →
    (s.dstate = .arming → (s.tmr.toNat + 1) % s.cfg.period = s.cfg.align →
      (tick s).tmr = 0 ∧ (tick s).trigPend = false) ∧
    (¬ (s.dstate = .arming ∧ (s.tmr.toNat + 1) % s.cfg.period = s.cfg.align) →
      (tick s).tmr.toNat = (s.tmr.toNat + 1) % s.cfg.period ∧
      ((tick s).trigPend = true ↔ s.trigPend = true ∨ (s.dstate ≠ .inflight ∧ s.tmr.toNat = s.cfg.tmrTop)))

/-- R245: the arming tick, whole; no pair moves in it. The settle counter is saturated while a transfer is armed, so it keeps
its value. -/
def Obligations.ArmingTickStartsTransfer : Prop :=
  ∀ (s : State), s.Inv → s.dstate = .arming →
    ((s.tmr.toNat + 1) % s.cfg.period = s.cfg.align →
      tick s = { s with trigPend := false, dstate := .inflight, pairIdx := 0, tmr := 0 }) ∧
    ((s.tmr.toNat + 1) % s.cfg.period ≠ s.cfg.align → (tick s).dstate = .arming ∧ (tick s).pairIdx = s.pairIdx)

/-- R247, with the transfer step R246: in flight, a tick moves one pair at a trigger edge and none otherwise, and the one that drives the last pair
completes the transfer. -/
def Obligations.TransferStepAndCompletion : Prop :=
  ∀ (s : State), s.Inv → s.dstate = .inflight →
    (s.tmr.toNat ≠ s.cfg.tmrTop → tick s = { s with tmr := BitVec.ofNat 16 (s.tmr.toNat + 1) }) ∧
    (s.tmr.toNat = s.cfg.tmrTop → ∃ w ∈ (s.mem.active s.cfg.dbuf)[s.pairIdx.toNat]?,
      (s.pairIdx.toNat + 1 < s.cfg.regionPairs →
        tick s = { s with tmr := 0, port := w, pairIdx := BitVec.ofNat 16 (s.pairIdx.toNat + 1) }) ∧
      (s.pairIdx.toNat + 1 = s.cfg.regionPairs →
        tick s = { s with
          tmr := 0, port := w, pairIdx := BitVec.ofNat 16 s.cfg.regionPairs, dstate := .idle, donePend := true,
          elapsed := 0 }) ∧
      (tick s).port0 = w.extractLsb' 0 8 ∧ (tick s).port1 = w.extractLsb' 8 8)

/-- R248: the settle counter in every tick, and after n idle ticks from any count, hence `min(n, SETTLE + 1)` n ticks after a
completion. -/
def Obligations.SettleCounterSaturates : Prop :=
  ∀ (s : State), s.Inv →
    (s.dstate = .inflight → s.tmr.toNat = s.cfg.tmrTop → s.pairIdx.toNat + 1 = s.cfg.regionPairs →
      (tick s).elapsed = 0) ∧
    (¬ (s.dstate = .inflight ∧ s.tmr.toNat = s.cfg.tmrTop ∧ s.pairIdx.toNat + 1 = s.cfg.regionPairs) →
      (tick s).elapsed.toNat = min (s.elapsed.toNat + 1) (s.cfg.settle + 1)) ∧
    (s.dstate = .idle → ∀ n, (ticks n s).elapsed.toNat = min (s.elapsed.toNat + n) (s.cfg.settle + 1))

/-! ### The whole machine -/

/-- Derived (R33 to R53): every step keeps the ranges of the state elements. The invariant gathers the ranges of 10_state.md; that its clauses hold
together in every step is derived. -/
def Obligations.StepKeepsInvariant : Prop :=
  ∀ (s t : State), s.Inv → step s = .next t → t.Inv

/-- Derived (R330 with R33 to R53): the reset state of every well-formed block meets the invariant. -/
def Obligations.ResetMeetsInvariant : Prop :=
  ∀ (c : Config), c.Wf → (State.resetWith c).Inv

/-- Derived (R208 with R246): in every run the regions and the ports carry safe pairs only, so the address clock is never
driven together with a primitive line or the primitive clock, and a completed transfer leaves both ports at 0. -/
def Obligations.StepKeepsDriveSafe : Prop :=
  (∀ (c : Config), c.Wf → (State.resetWith c).DriveSafe) ∧
  ∀ (s t : State), s.Inv → s.DriveSafe → step s = .next t →
    t.DriveSafe ∧ (s.donePend = false → t.donePend = true → t.port = 0)

/-- R330: what a reset leaves, of any state. -/
def Obligations.ResetValues : Prop :=
  ∀ (s : State), s.cfg.Wf → ∃ t, perform .reset s = .next t ∧
    (∀ i, t.mem.slotPos i = 0 ∧ ∀ a, t.mem.slotPat i a = 0) ∧
    t.w = 1 ∧ t.r = { odd := 0, even := 0 } ∧ t.mode.code = 0 ∧ t.loopcnt = 0 ∧ t.act = { odd := true, even := true } ∧
    t.pmode.code = 0 ∧ t.mem.inPos = 0 ∧ (∀ a, t.mem.inPatAt a = 0) ∧ t.split.count = 1 ∧ t.tmode.num = 0 ∧
    (∀ i, t.mem.stageAt i = 0 ∧ t.mem.activeAt t.cfg.dbuf i = 0) ∧ t.dstate.code = 0 ∧ t.pairIdx = 0 ∧ t.tmr = 0 ∧
    t.trigPend = false ∧ t.elapsed.toNat = s.cfg.settle + 1 ∧ t.donePend = false ∧ t.irqEn = false ∧ t.port = 0 ∧
    t.cfg = s.cfg ∧ t.port0 = 0 ∧ t.port1 = 0 ∧ t.irq = false ∧ (∀ side, t.unread side = 0) ∧ t.wspace = s.cfg.C - 1 ∧ t.busy = false ∧
    t.stat = if s.cfg.dbuf then 0x00010070 else 0x00000070

/-- R331: a reset during a transfer ends it at once with no completion and no settle window, and no later tick drives a
pair; nothing else stops a transfer before its last pair. -/
def Obligations.ResetAbortsTransfer : Prop :=
  ∀ (s : State), s.Inv → s.dstate ≠ .idle → ∃ t, perform .reset s = .next t ∧
    t.dstate = .idle ∧ t.port = 0 ∧ t.donePend = false ∧ t.elapsed.toNat = s.cfg.settle + 1 ∧ t.busy = false ∧
    (∀ n, (ticks n t).port = 0 ∧ (ticks n t).donePend = false ∧ (ticks n t).dstate = .idle) ∧
    ∀ e u, perform e s = .next u → u.dstate = .idle →
      e = .reset ∨ (e = .tick ∧ u.donePend = true ∧ u.pairIdx.toNat = s.cfg.regionPairs)

/-- Derived (R58): which commands write which element. -/
def Obligations.OnlyListedCommandsWrite : Prop :=
  ∀ (i : Instr) (s t : State), exec i s = .next t →
    (t.mem.slots ≠ s.mem.slots → i = .add ∨ i = .clearall) ∧
    (t.w ≠ s.w → i = .add ∨ i = .clearall) ∧
    (∀ side, t.r.get side ≠ s.r.get side → (∃ x, i = .next x) ∨ i = .clearall ∨ i = .resetrd) ∧
    (t.mode ≠ s.mode → ∃ v, i = .setmode v) ∧
    (t.loopcnt ≠ s.loopcnt → ((∃ x, i = .next x) ∧ s.mode = .looping) ∨ i = .clearall) ∧
    (∀ side, t.act.get side ≠ s.act.get side → ∃ v, i = .setact side v) ∧
    (t.pmode ≠ s.pmode → ∃ v, i = .setpmode v) ∧
    (t.mem.inPos ≠ s.mem.inPos → ∃ v, i = .ldpos v) ∧
    (t.mem.inPat ≠ s.mem.inPat → ∃ a v, i = .ldpat a v) ∧
    (t.split ≠ s.split → ∃ v, i = .setsplit v) ∧
    (t.tmode ≠ s.tmode → ∃ v, i = .settmode v) ∧
    (t.mem.stage ≠ s.mem.stage → i = .encode ∨ i = .encin) ∧
    (t.mem.active t.cfg.dbuf ≠ s.mem.active s.cfg.dbuf →
      (i = .dispatch ∧ s.cfg.dbuf = true) ∨ ((i = .encode ∨ i = .encin) ∧ s.cfg.dbuf = false)) ∧
    (t.dstate ≠ s.dstate → i = .dispatch) ∧ (t.trigPend ≠ s.trigPend → i = .dispatch) ∧
    (t.donePend ≠ s.donePend → i = .ackdone) ∧ (t.irqEn ≠ s.irqEn → ∃ v, i = .setirq v) ∧
    t.pairIdx = s.pairIdx ∧ t.tmr = s.tmr ∧ t.elapsed = s.elapsed ∧ t.port = s.port ∧ t.cfg = s.cfg ∧ t.inputs = s.inputs

/-- Derived (R301): every command answers with a code; a code other than OK comes with RDATA = 0 and no state written, and each is
returned only by the commands the table lists; ILLEGAL never succeeds on a retry. -/
def Obligations.FailingCommandWritesNothing : Prop :=
  ∀ (s : State) (cw : CmdWord) (wd : Word), ∃ t a, perform (.command cw wd) s = .next t ∧ t.response = some a ∧
    (a.rc ≠ .ok → t = s.answer a.rc 0) ∧
    (a.rc = .full → decode s.cfg.A cw wd = .command .add) ∧
    (a.rc = .empty → ∃ side x, decode s.cfg.A cw wd = .command (.next side) ∨
      decode s.cfg.A cw wd = .command (.pkapos side) ∨ decode s.cfg.A cw wd = .command (.pkapat side x)) ∧
    (a.rc = .busy → decode s.cfg.A cw wd = .command .dispatch) ∧
    (a.rc = .illegal → (∃ e, decode s.cfg.A cw wd = .illegal e) ∨ decode s.cfg.A cw wd = .command (.rdstg wd) ∨
      decode s.cfg.A cw wd = .command (.rdact wd)) ∧
    (a.rc = .hazard → decode s.cfg.A cw wd = .command .encode ∨ decode s.cfg.A cw wd = .command .encin) ∧
    (a.rc = .illegal → ∀ u : State, u.cfg = s.cfg → perform (.command cw wd) u = .next (u.answer .illegal 0)) ∧
    (a.rc.code.toNat ≤ 5)

/-- Derived (R89): the reading commands write no state and give the same answer when repeated. -/
def Obligations.ReadsWriteNothingAndRepeat : Prop :=
  ∀ (s : State) (i : Instr),
    (i ∈ [.rdspcmin, .wrspc, .getmode, .getloop, .isbusy, .rdstat, .rdxfer, .rdport, .rdtmr, .rdelap] ∨
      (∃ side, i = .peekpos side ∨ i = .pkapos side ∨ i = .rdspc side) ∨
      (∃ side a, i = .peekpat side a ∨ i = .pkapat side a) ∨ (∃ a, i = .merged a) ∨
      (∃ v, i = .rdstg v ∨ i = .rdact v)) →
    ∃ rc d, exec i s = .next (s.answer rc d) ∧ exec i (s.answer rc d) = .next (s.answer rc d)

/-- R240: DSTATE moves only along the edges of the table, and by a reset. -/
def Obligations.DispatcherStateEdges : Prop :=
  ∀ (s t : State) (e : Event), s.Inv → perform e s = .next t → t.dstate ≠ s.dstate →
    (s.dstate = .idle ∧ t.dstate = .arming ∧ s.busy = false ∧
      ∃ cw wd, e = .command cw wd ∧ decode s.cfg.A cw wd = .command .dispatch) ∨
    (s.dstate = .arming ∧ t.dstate = .inflight ∧ e = .tick ∧ (s.tmr.toNat + 1) % s.cfg.period = s.cfg.align) ∨
    (s.dstate = .inflight ∧ t.dstate = .idle ∧ e = .tick ∧ s.tmr.toNat = s.cfg.tmrTop ∧
      s.pairIdx.toNat + 1 = s.cfg.regionPairs) ∨
    (e = .reset ∧ t.dstate = .idle)

/-- Derived (R94, R261): while a transfer is armed or in flight no command changes the active region, the transfer's progress
or its timing. -/
def Obligations.CommandsLeaveTransferAlone : Prop :=
  ∀ (s t : State) (cw : CmdWord) (wd : Word), s.Inv → s.dstate ≠ .idle → perform (.command cw wd) s = .next t →
    t.mem.active t.cfg.dbuf = s.mem.active s.cfg.dbuf ∧ t.dstate = s.dstate ∧ t.pairIdx = s.pairIdx ∧ t.tmr = s.tmr ∧
    t.trigPend = s.trigPend ∧ t.port = s.port ∧ t.elapsed = s.elapsed

/-- Derived (R262): an armed dispatcher arms in the d-th tick and not before. -/
def Obligations.ArmingLatency : Prop :=
  ∀ (s : State), s.Inv → s.dstate = .arming →
    1 ≤ armDelay s.cfg s.tmr.toNat ∧ armDelay s.cfg s.tmr.toNat ≤ s.cfg.period ∧
    (∀ n, n < armDelay s.cfg s.tmr.toNat → (ticks n s).dstate = .arming ∧ (ticks n s).port = s.port) ∧
    ticks (armDelay s.cfg s.tmr.toNat) s =
      { s with dstate := .inflight, trigPend := false, pairIdx := 0, tmr := 0 }

/-- Derived (R262): after the arming tick, pair i is driven in tick (i + 1)·N, the transfer completes in tick
REGION_PAIRS·N and the block stays busy through SETTLE further ticks. -/
def Obligations.TransferSchedule : Prop :=
  ∀ (s : State), s.Inv → s.dstate = .inflight → s.tmr = 0 → s.pairIdx = 0 →
    (∀ i, i < s.cfg.regionPairs →
      some (ticks ((i + 1) * s.cfg.period) s).port = (s.mem.active s.cfg.dbuf)[i]? ∧
      (ticks ((i + 1) * s.cfg.period) s).pairIdx.toNat = i + 1) ∧
    (∀ n, n < s.cfg.regionPairs * s.cfg.period → (ticks n s).dstate = .inflight ∧ (ticks n s).donePend = s.donePend) ∧
    (ticks (s.cfg.regionPairs * s.cfg.period) s).dstate = .idle ∧
    (ticks (s.cfg.regionPairs * s.cfg.period) s).donePend = true ∧
    ∀ m, ((ticks (s.cfg.regionPairs * s.cfg.period + m) s).busy = true ↔ m ≤ s.cfg.settle)

/-- Derived (R261, R262, R344): an accepted DISPATCH followed by ticks sends the whole staging region as it stood and frees the
block SETTLE + 1 ticks after the completion. -/
def Obligations.AcceptedDispatchCompletes : Prop :=
  ∀ (s t : State), s.Inv → s.busy = false → exec .dispatch s = .next t →
    let d := armDelay s.cfg s.tmr.toNat
    let last := d + s.cfg.regionPairs * s.cfg.period
    (∀ i, i < s.cfg.regionPairs → some (ticks (d + (i + 1) * s.cfg.period) t).port = s.mem.stage[i]?) ∧
    (ticks last t).donePend = true ∧
    (∀ n, n ≤ last + s.cfg.settle → (ticks n t).busy = true) ∧
    (ticks (last + s.cfg.settle + 1) t).busy = false
end

