-- ==== Sys2Proof/Laws/Memory.lean ====
section
/-! SUPPORT. The laws of the indexed storage: read after write, and every memory operation keeps the form `Memory.wf`. -/

namespace Sys2Proof.Machine

/-! ### Masks -/

theorem lowMask_toNat {P : Nat} (h : P ≤ 16) : (lowMask P).toNat = 2 ^ P - 1 := by
  have h1 : 2 ^ P ≤ 2 ^ 16 := Nat.pow_le_pow_right (by decide) h
  have h2 : 0 < 2 ^ P := Nat.two_pow_pos P
  simp only [lowMask, BitVec.toNat_ofNat]
  omega

/-- LDPAT keeps exactly the low P bits of WDATA. -/
theorem maskOperand_toNat {P : Nat} (h : P ≤ 16) (d : Word) : (maskOperand P d).toNat = d.toNat % 2 ^ P := by
  simp only [maskOperand, BitVec.toNat_and, BitVec.toNat_setWidth, lowMask_toNat h, Nat.and_two_pow_sub_one_eq_mod]
  exact Nat.mod_mod_of_dvd _ (Nat.pow_dvd_pow 2 h)

theorem maskOperand_fits {P : Nat} (h : P ≤ 16) (d : Word) : MaskFits P (maskOperand P d) := by
  simp only [MaskFits, maskOperand_toNat h]
  exact Nat.mod_lt _ (Nat.two_pow_pos P)

theorem zero_fits (P : Nat) : MaskFits P 0 := by simp [MaskFits]

theorem and_fits {P : Nat} {x : Mask} (y : Mask) (h : MaskFits P x) : MaskFits P (x &&& y) := by
  simp only [MaskFits, BitVec.toNat_and] at *
  exact lt_of_le_of_lt Nat.and_le_left h

theorem or_fits {P : Nat} {x y : Mask} (hx : MaskFits P x) (hy : MaskFits P y) : MaskFits P (x ||| y) := by
  simp only [MaskFits, BitVec.toNat_or] at *
  exact Nat.or_lt_two_pow hx hy

/-- A mask that fits in P bits has no bit at P or above. -/
theorem getLsbD_of_fits {P : Nat} {x : Mask} (h : MaskFits P x) {i : Nat} (hi : P ≤ i) : x.getLsbD i = false := by
  simp only [BitVec.getLsbD]
  exact Nat.testBit_lt_two_pow (lt_of_lt_of_le h (Nat.pow_le_pow_right (by decide) hi))

/-! ### Lists read with a default -/

theorem getD_mem_or_default {α : Type} (l : List α) (i : Nat) (d : α) : l.getD i d ∈ l ∨ l.getD i d = d := by
  by_cases h : i < l.length
  · left
    simp [List.getD_eq_getElem?_getD, List.getElem?_eq_getElem h]
  · right
    simp [List.getD_eq_getElem?_getD, List.getElem?_eq_none (Nat.le_of_not_lt h)]

theorem getD_set_same {α : Type} {l : List α} {i : Nat} (x d : α) (h : i < l.length) : (l.set i x).getD i d = x := by
  simp [List.getD_eq_getElem?_getD, h]

theorem getD_set_other {α : Type} (l : List α) {i j : Nat} (x d : α) (h : j ≠ i) : (l.set i x).getD j d = l.getD j d := by
  simp [List.getD_eq_getElem?_getD, List.getElem?_set_ne (Ne.symm h)]

theorem getD_replicate_default {α : Type} (n i : Nat) (d : α) : (List.replicate n d).getD i d = d := by
  rcases getD_mem_or_default (List.replicate n d) i d with h | h
  · exact List.eq_of_mem_replicate h
  · exact h

/-! ### Read after write -/

theorem slotAt_writeSlot_same {m : Memory} {i : Nat} (e : Slot) (h : i < m.slots.length) :
    (m.writeSlot i e).slotAt i = e := getD_set_same e _ h

theorem slotAt_writeSlot_other (m : Memory) {i j : Nat} (e : Slot) (h : j ≠ i) :
    (m.writeSlot i e).slotAt j = m.slotAt j := getD_set_other m.slots e _ h

theorem inPatAt_writeInPat_same {m : Memory} {a : Nat} (x : Mask) (h : a < m.inPat.length) :
    (m.writeInPat a x).inPatAt a = x := getD_set_same x _ h

theorem inPatAt_writeInPat_other (m : Memory) {a b : Nat} (x : Mask) (h : b ≠ a) :
    (m.writeInPat a x).inPatAt b = m.inPatAt b := getD_set_other m.inPat x _ h

/-- Every slot of a cleared ring reads as zeros. -/
theorem slotAt_clearSlots (m : Memory) (A C i : Nat) :
    ((m.clearSlots A C).slotAt i).pos = 0 ∧ ∀ a, ((m.clearSlots A C).slotAt i).pat.getD a 0 = 0 := by
  rcases getD_mem_or_default (m.clearSlots A C).slots i { pos := 0, pat := [] } with h | h
  · have h' : (m.clearSlots A C).slotAt i = emptySlot A := List.eq_of_mem_replicate h
    rw [h']
    exact ⟨rfl, fun a => getD_replicate_default A a 0⟩
  · have h' : (m.clearSlots A C).slotAt i = { pos := 0, pat := [] } := h
    rw [h']
    exact ⟨rfl, fun a => by simp⟩

/-! ### The words read from well-formed storage fit in P bits -/

/-- The words of a fire pattern. -/
theorem patternOk_iff {c : Config} {pat : List Mask} :
    PatternOk c pat ↔ pat.length = c.A ∧ ∀ m ∈ pat, MaskFits c.P m := by
  simp only [PatternOk, List.all_eq_true, decide_eq_true_eq]

theorem getD_fits {P : Nat} {l : List Mask} (h : ∀ m ∈ l, MaskFits P m) (a : Nat) : MaskFits P (l.getD a 0) := by
  rcases getD_mem_or_default l a 0 with hm | hm
  · exact h _ hm
  · rw [hm]; exact zero_fits P

theorem slotPat_fits {c : Config} {m : Memory} (h : m.wf c) (i a : Nat) : MaskFits c.P (m.slotPat i a) := by
  rcases getD_mem_or_default m.slots i { pos := 0, pat := [] } with hm | hm
  · exact getD_fits (patternOk_iff.mp (h.2.1 _ hm)).2 a
  · have : m.slotAt i = { pos := 0, pat := [] } := hm
    simp [Memory.slotPat, this, MaskFits]

theorem inPatAt_fits {c : Config} {m : Memory} (h : m.wf c) (a : Nat) : MaskFits c.P (m.inPatAt a) :=
  getD_fits (patternOk_iff.mp h.2.2.1).2 a

/-! ### Every memory operation keeps the form -/

theorem zero_wf (c : Config) : (Memory.zero c).wf c := by
  refine ⟨by simp [Memory.zero], ?_, ?_, by simp [Memory.zero], by simp [Memory.zero]⟩
  · intro e he
    rw [List.eq_of_mem_replicate he]
    exact patternOk_iff.mpr ⟨by simp, fun m hm => by rw [List.eq_of_mem_replicate hm]; exact zero_fits _⟩
  · exact patternOk_iff.mpr ⟨by simp [Memory.zero], fun m hm => by rw [List.eq_of_mem_replicate hm]; exact zero_fits _⟩

theorem writeInPos_wf {c : Config} {m : Memory} (x : Word) (h : m.wf c) : (m.writeInPos x).wf c := h

theorem writeInPat_wf {c : Config} {m : Memory} (a : Nat) {x : Mask} (hx : MaskFits c.P x) (h : m.wf c) :
    (m.writeInPat a x).wf c := by
  refine ⟨h.1, h.2.1, patternOk_iff.mpr ⟨by simpa [Memory.writeInPat] using h.2.2.1.1, ?_⟩, h.2.2.2⟩
  intro y hy
  rcases List.mem_or_eq_of_mem_set hy with h' | rfl
  · exact (patternOk_iff.mp h.2.2.1).2 y h'
  · exact hx

theorem writeSlot_wf {c : Config} {m : Memory} (i : Nat) {e : Slot} (he : PatternOk c e.pat) (h : m.wf c) :
    (m.writeSlot i e).wf c := by
  refine ⟨by simpa [Memory.writeSlot] using h.1, ?_, h.2.2⟩
  intro y hy
  rcases List.mem_or_eq_of_mem_set hy with h' | rfl
  · exact h.2.1 y h'
  · exact he

theorem clearSlots_wf {c : Config} {m : Memory} (h : m.wf c) : (m.clearSlots c.A c.C).wf c := by
  refine ⟨by simp [Memory.clearSlots], ?_, h.2.2⟩
  intro y hy
  rw [List.eq_of_mem_replicate hy]
  exact patternOk_iff.mpr ⟨by simp [emptySlot], fun m hm => by rw [List.eq_of_mem_replicate hm]; exact zero_fits _⟩

theorem writeStage_wf {c : Config} {m : Memory} {out : List Pair} (ho : out.length = c.regionPairs) (h : m.wf c) :
    (m.writeStage out).wf c := ⟨h.1, h.2.1, h.2.2.1, ho, h.2.2.2.2⟩

theorem copyToActive_wf {c : Config} {m : Memory} (h : m.wf c) : (m.copyToActive c.dbuf).wf c := by
  unfold Memory.copyToActive
  cases hd : c.dbuf with
  | false => simpa using h
  | true => exact ⟨h.1, h.2.1, h.2.2.1, h.2.2.2.1, by simpa [hd] using h.2.2.2.1⟩

/-- The active region has REGION_PAIRS pairs, whichever storage holds it. -/
theorem active_length {c : Config} {m : Memory} (h : m.wf c) : (m.active c.dbuf).length = c.regionPairs := by
  unfold Memory.active
  cases hd : c.dbuf with
  | false => simpa using h.2.2.2.1
  | true => simpa [hd] using h.2.2.2.2

/-- After the copy the active region holds the staging region. -/
@[simp] theorem active_copyToActive (m : Memory) (dbuf : Bool) : (m.copyToActive dbuf).active dbuf = m.stage := by
  cases dbuf <;> rfl

@[simp] theorem copyToActive_stage (m : Memory) (dbuf : Bool) : (m.copyToActive dbuf).stage = m.stage := by
  cases dbuf <;> rfl

@[simp] theorem copyToActive_slots (m : Memory) (dbuf : Bool) : (m.copyToActive dbuf).slots = m.slots := by
  cases dbuf <;> rfl

@[simp] theorem copyToActive_inPos (m : Memory) (dbuf : Bool) : (m.copyToActive dbuf).inPos = m.inPos := by
  cases dbuf <;> rfl

@[simp] theorem copyToActive_inPat (m : Memory) (dbuf : Bool) : (m.copyToActive dbuf).inPat = m.inPat := by
  cases dbuf <;> rfl

end Sys2Proof.Machine
end

