-- ==== Sys2Proof/Laws/Burst.lean ====
section
/-! SUPPORT. The laws of the encoding function: lengths, positions, members, and the bits of a pair. -/

namespace Sys2Proof.Machine

/-! ### Blocks of equal length -/

theorem length_flatMap_range {α : Type} {f : Nat → List α} {L : Nat} (h : ∀ a, (f a).length = L) (n : Nat) :
    ((List.range n).flatMap f).length = n * L := by
  induction n with
  | zero => simp
  | succ n ih => simp [List.range_succ, List.flatMap_append, ih, h, Nat.succ_mul]

/-- Element o of block a stands at `a * L + o`. -/
theorem getElem?_flatMap_range {α : Type} {f : Nat → List α} {L n a o : Nat} (h : ∀ a, (f a).length = L) (ha : a < n)
    (ho : o < L) : ((List.range n).flatMap f)[a * L + o]? = (f a)[o]? := by
  induction n with
  | zero => omega
  | succ n ih =>
    rw [List.range_succ, List.flatMap_append]
    have hl := length_flatMap_range h n
    rcases Nat.lt_succ_iff_lt_or_eq.mp ha with h' | rfl
    · have : a * L + L ≤ n * L := by
        calc a * L + L = (a + 1) * L := by ring
          _ ≤ n * L := Nat.mul_le_mul_right L h'
      rw [List.getElem?_append_left (by omega), ih h']
    · rw [List.getElem?_append_right (by omega), hl, show a * L + o - a * L = o by omega]
      simp

/-! ### Lengths (41_encoder.md R207) -/

theorem phasePairs_length (c : Config) (m : Mask) {t : Nat} (h : t ≤ 1) : (phasePairs c m t).length = 3 + t := by
  interval_cases t <;> rfl

theorem slotPairs_length (c : Config) (w : Mask) (k : Nat) {t : Nat} (h : t ≤ 1) :
    (slotPairs c w k t).length = 2 + k * (3 + t) := by
  simp only [slotPairs, List.length_append, List.length_cons, List.length_nil]
  rw [length_flatMap_range (fun j => phasePairs_length c (w &&& c.splitMask k j) h)]

theorem contentPairs_length (c : Config) (pat : List Mask) (k : Nat) {t : Nat} (h : t ≤ 1) :
    (contentPairs c pat k t).length = contentLength c k t :=
  length_flatMap_range (fun a => slotPairs_length c (pat.getD a 0) k h) c.A

/-- No setting overflows the region of a well-formed configuration (41_encoder.md R207). -/
theorem contentLength_le {c : Config} (hc : c.Wf) {k t : Nat} (hk : k ≤ 4) (ht : t ≤ 1) :
    contentLength c k t ≤ c.regionPairs := by
  have h1 : k * (3 + t) ≤ 4 * 4 := Nat.mul_le_mul hk (by omega)
  have h2 : contentLength c k t ≤ c.A * 18 := Nat.mul_le_mul_left _ (by omega)
  have := hc.2.1.1
  omega

/-- The encoder returns exactly REGION_PAIRS pairs (41_encoder.md R200). -/
theorem enc_length {c : Config} (hc : c.Wf) (pat : List Mask) {k t : Nat} (hk : k ≤ 4) (ht : t ≤ 1) :
    (enc c pat k t).length = c.regionPairs := by
  have := contentLength_le hc hk ht
  simp only [enc, backfill, List.length_append, List.length_replicate, contentPairs_length c pat k ht]
  omega

theorem split_count_pos (k : Split) : 1 ≤ k.count := by cases k <;> decide
theorem split_count_le (k : Split) : k.count ≤ 4 := by cases k <;> decide
theorem timing_num_le (t : TimingMode) : t.num ≤ 1 := by cases t <;> decide

/-! ### Members -/

/-- Every pair of a phase. -/
theorem mem_phasePairs {c : Config} {m : Mask} {t : Nat} {w : Pair} (h : w ∈ phasePairs c m t) :
    w = pw c m false false ∨ w = pw c m false true ∨ w = pw c 0 false false := by
  unfold phasePairs at h
  split at h <;> simp at h <;> tauto

/-- Every pair the encoder emits: an address advance, a settle, a data pair or a clocked data pair of one phase, a zero. -/
theorem mem_enc {c : Config} {pat : List Mask} {k t : Nat} {w : Pair} (h : w ∈ enc c pat k t) :
    w = 0 ∨ w = pw c 0 true false ∨ w = pw c 0 false false ∨
    ∃ a j, j < k ∧ (w = pw c (pat.getD a 0 &&& c.splitMask k j) false false ∨
      w = pw c (pat.getD a 0 &&& c.splitMask k j) false true) := by
  rcases List.mem_append.mp h with h | h
  · obtain ⟨a, -, ha⟩ := List.mem_flatMap.mp h
    rcases List.mem_append.mp ha with h1 | h1
    · simp at h1; tauto
    · obtain ⟨j, hj, hw⟩ := List.mem_flatMap.mp h1
      have := List.mem_range.mp hj
      rcases mem_phasePairs hw with h2 | h2 | h2
      · exact .inr (.inr (.inr ⟨a, j, this, .inl h2⟩))
      · exact .inr (.inr (.inr ⟨a, j, this, .inr h2⟩))
      · exact .inr (.inr (.inl h2))
  · exact .inl (List.eq_of_mem_replicate h)

/-! ### The bits of a pair (41_encoder.md R201) -/

theorem getLsbD_one_shiftLeft (n i : Nat) : (1#16 <<< n).getLsbD i = (decide (i < 16) && decide (i = n)) := by
  rw [BitVec.getLsbD_shiftLeft]
  by_cases h1 : i < 16
  · by_cases h2 : i < n
    · simp [h2, show i ≠ n by omega]
    · by_cases h3 : i = n
      · subst h3; simp [h1]
      · simp [h1, h2, h3, show i - n ≠ 0 by omega]
  · simp [h1]

theorem foldl_shift_getLsbD (m : Mask) (f : Nat → Nat) (l : List Nat) (acc : Pair) (i : Nat) :
    (l.foldl (fun acc p => if m.getLsbD p then acc ||| (1#16 <<< f p) else acc) acc).getLsbD i =
      (acc.getLsbD i || l.any fun p => m.getLsbD p && (decide (i < 16) && decide (i = f p))) := by
  induction l generalizing acc with
  | nil => simp
  | cons p l ih =>
    rw [List.foldl_cons, ih, List.any_cons]
    cases h : m.getLsbD p
    · simp
    · simp only [if_true, BitVec.getLsbD_or, getLsbD_one_shiftLeft, Bool.true_and, Bool.or_assoc]

theorem primBits_getLsbD (c : Config) (m : Mask) (i : Nat) :
    (primBits c m).getLsbD i = true ↔ ∃ p, p < c.P ∧ m.getLsbD p = true ∧ i < 16 ∧ i = c.pmap.prim.getD p 0 := by
  unfold primBits
  rw [foldl_shift_getLsbD]
  simp only [BitVec.ofNat_eq_ofNat, BitVec.getLsbD_zero, Bool.false_or, List.any_eq_true, List.mem_range,
    Bool.and_eq_true, decide_eq_true_eq]

theorem signalBit_getLsbD (b : Bool) (n i : Nat) : (signalBit b n).getLsbD i = (b && (decide (i < 16) && decide (i = n))) := by
  cases b
  · simp [signalBit]
  · simp only [signalBit, if_true, getLsbD_one_shiftLeft, Bool.true_and]

/-- Which bits of a pair are set. -/
theorem pw_getLsbD (c : Config) (m : Mask) (ac pc : Bool) (i : Nat) :
    (pw c m ac pc).getLsbD i = true ↔
      (∃ p, p < c.P ∧ m.getLsbD p = true ∧ i < 16 ∧ i = c.pmap.prim.getD p 0) ∨
      (ac = true ∧ i < 16 ∧ i = c.pmap.aclk) ∨ (pc = true ∧ i < 16 ∧ i = c.pmap.pclk) := by
  simp only [pw, BitVec.getLsbD_or, Bool.or_eq_true, primBits_getLsbD, signalBit_getLsbD, Bool.and_eq_true,
    decide_eq_true_eq, or_assoc]

/-- The idle pair is zero. -/
@[simp] theorem pw_zero (c : Config) : pw c 0 false false = 0 := by
  apply BitVec.eq_of_getLsbD_eq
  intro i _
  rw [Bool.eq_iff_iff, pw_getLsbD]
  simp

/-! ### The signal bits of a pair in a well-formed port map -/

/-- Primitive line p has a bit in the port map. -/
theorem prim_getElem? {c : Config} (h : c.PortMapOk) {p : Nat} (hp : p < c.P) :
    c.pmap.prim[p]? = some (c.pmap.prim.getD p 0) := by
  have : p < c.pmap.prim.length := by rw [h.1]; exact hp
  simp [List.getD_eq_getElem?_getD, List.getElem?_eq_getElem this]

theorem prim_mem {c : Config} (h : c.PortMapOk) {p : Nat} (hp : p < c.P) : c.pmap.prim.getD p 0 ∈ c.pmap.prim :=
  List.mem_of_getElem? (prim_getElem? h hp)

/-- The bits of the port map are distinct. -/
theorem nodup_prim {c : Config} (h : c.PortMapOk) :
    c.pmap.prim.Nodup ∧ c.pmap.aclk ∉ c.pmap.prim ∧ c.pmap.pclk ∉ c.pmap.prim ∧ c.pmap.aclk ≠ c.pmap.pclk := by
  have := h.2.1
  rw [List.nodup_append] at this
  obtain ⟨h1, h2, h3⟩ := this
  refine ⟨h1, fun hc => h3 _ hc _ (by simp) rfl, fun hc => h3 _ hc _ (by simp) rfl, ?_⟩
  simp at h2; exact h2

/-- The bit of primitive line p carries bit p of the mask. -/
theorem pw_prim {c : Config} (h : c.PortMapOk) (m : Mask) (ac pc : Bool) {p : Nat} (hp : p < c.P) :
    (pw c m ac pc).getLsbD (c.pmap.prim.getD p 0) = m.getLsbD p := by
  obtain ⟨n1, n2, n3, n4⟩ := nodup_prim h
  have hmem := prim_mem h hp
  rw [Bool.eq_iff_iff, pw_getLsbD]
  constructor
  · rintro (⟨q, h1, h2, h3, h4⟩ | ⟨h1, h2, h3⟩ | ⟨h1, h2, h3⟩)
    · have e1 := prim_getElem? h hp
      have e2 := prim_getElem? h h1
      rw [h4] at e1
      have lq : q < c.pmap.prim.length := by rw [h.1]; exact h1
      have lp : p < c.pmap.prim.length := by rw [h.1]; exact hp
      have := (List.Nodup.getElem_inj_iff n1 (hi := lp) (hj := lq)).mp (by
        have a1 := List.getElem?_eq_getElem lp
        have a2 := List.getElem?_eq_getElem lq
        rw [e1] at a1; rw [e2] at a2
        exact (Option.some.inj a1).symm.trans (Option.some.inj a2))
      rw [this]; exact h2
    · exact absurd (h3 ▸ hmem) n2
    · exact absurd (h3 ▸ hmem) n3
  · intro hm
    exact .inl ⟨p, hp, hm, h.2.2 _ (List.mem_append_left _ hmem), rfl⟩

/-- The bit of the address clock carries the address-clock signal. -/
theorem pw_aclk {c : Config} (h : c.PortMapOk) (m : Mask) (ac pc : Bool) : (pw c m ac pc).getLsbD c.pmap.aclk = ac := by
  obtain ⟨n1, n2, n3, n4⟩ := nodup_prim h
  rw [Bool.eq_iff_iff, pw_getLsbD]
  constructor
  · rintro (⟨q, h1, h2, h3, h4⟩ | ⟨h1, h2, h3⟩ | ⟨h1, h2, h3⟩)
    · exact absurd (h4 ▸ prim_mem h h1) n2
    · exact h1
    · exact absurd h3 n4
  · intro ha; exact .inr (.inl ⟨ha, h.2.2 _ (by simp), rfl⟩)

/-- The bit of the primitive clock carries the primitive-clock signal. -/
theorem pw_pclk {c : Config} (h : c.PortMapOk) (m : Mask) (ac pc : Bool) : (pw c m ac pc).getLsbD c.pmap.pclk = pc := by
  obtain ⟨n1, n2, n3, n4⟩ := nodup_prim h
  rw [Bool.eq_iff_iff, pw_getLsbD]
  constructor
  · rintro (⟨q, h1, h2, h3, h4⟩ | ⟨h1, h2, h3⟩ | ⟨h1, h2, h3⟩)
    · exact absurd (h4 ▸ prim_mem h h1) n3
    · exact absurd h3.symm n4
    · exact h1
  · intro ha; exact .inr (.inr ⟨ha, h.2.2 _ (by simp), rfl⟩)

/-! ### Where a pair stands in the region (41_encoder.md R206) -/

/-- Pair o of address slot a. -/
theorem enc_at {c : Config} {pat : List Mask} {k t a o : Nat} (ht : t ≤ 1) (ha : a < c.A)
    (ho : o < 2 + k * (3 + t)) :
    (enc c pat k t)[a * (2 + k * (3 + t)) + o]? = (slotPairs c (pat.getD a 0) k t)[o]? := by
  have hl := contentPairs_length c pat k ht
  have hlt : a * (2 + k * (3 + t)) + o < contentLength c k t := by
    have : (a + 1) * (2 + k * (3 + t)) ≤ c.A * (2 + k * (3 + t)) := Nat.mul_le_mul_right _ ha
    unfold contentLength
    rw [Nat.succ_mul] at this
    omega
  unfold enc backfill
  rw [List.getElem?_append_left (by omega)]
  exact getElem?_flatMap_range (fun a => slotPairs_length c (pat.getD a 0) k ht) ha ho

/-- Pair o of phase j of a slot. -/
theorem slot_phase {c : Config} {w : Mask} {k t j o : Nat} (ht : t ≤ 1) (hj : j < k) (ho : o < 3 + t) :
    (slotPairs c w k t)[2 + j * (3 + t) + o]? = (phasePairs c (w &&& c.splitMask k j) t)[o]? := by
  unfold slotPairs
  rw [List.getElem?_append_right (by simp; omega)]
  have : 2 + j * (3 + t) + o - [pw c 0 true false, pw c 0 false false].length = j * (3 + t) + o := by simp; omega
  rw [this]
  exact getElem?_flatMap_range (fun j => phasePairs_length c (w &&& c.splitMask k j) ht) hj ho

end Sys2Proof.Machine
end

