-- ==== Sys2Proof/Laws/Decode.lean ====
section
/-! SUPPORT. The fields of an encoded command word, what the opcode map can answer, and when decoding accepts. -/

namespace Sys2Proof

/-! ### The fields of a word laid out as OP, S, IDX, RSV -/

theorem fields_of_layout (op : BitVec 6) (s : BitVec 1) (a : SlotIdx) (z : BitVec 4) (cw : CmdWord)
    (h : cw = op ++ s ++ a ++ z) :
    opField cw = op ∧ cw.getLsbD 9 = s.getLsbD 0 ∧ idxField cw = a ∧ rsvField cw = z := by
  have bit : ∀ i, cw.getLsbD i = if i < 4 then z.getLsbD i else if i - 4 < 5 then a.getLsbD (i - 4)
      else if i - 4 - 5 < 1 then s.getLsbD (i - 4 - 5) else op.getLsbD (i - 4 - 5 - 1) := by
    intro i
    subst h
    simp only [BitVec.getLsbD_append]
  refine ⟨?_, ?_, ?_, ?_⟩
  · apply BitVec.eq_of_getLsbD_eq
    intro i hi
    simp only [opField, BitVec.getLsbD_extractLsb', bit, hi, decide_true, Bool.true_and]
    rw [if_neg (by omega), if_neg (by omega), if_neg (by omega), show 10 + i - 4 - 5 - 1 = i by omega]
  · rw [bit]; simp
  · apply BitVec.eq_of_getLsbD_eq
    intro i hi
    simp only [idxField, BitVec.getLsbD_extractLsb', bit, hi, decide_true, Bool.true_and]
    rw [if_neg (by omega), if_pos (by omega), show 4 + i - 4 = i by omega]
  · apply BitVec.eq_of_getLsbD_eq
    intro i hi
    simp only [rsvField, BitVec.getLsbD_extractLsb', bit, hi, decide_true, Bool.true_and]
    rw [if_pos (by omega), show 0 + i = i by omega]

/-- Every word is the layout of its own fields. -/
theorem layout_of_fields (cw : CmdWord) : opField cw ++ cw.extractLsb' 9 1 ++ idxField cw ++ rsvField cw = cw := by
  apply BitVec.eq_of_getLsbD_eq
  intro i hi
  simp only [opField, idxField, rsvField, BitVec.getLsbD_append, BitVec.getLsbD_extractLsb']
  by_cases h1 : i < 4
  · simp [h1]
  · by_cases h2 : i - 4 < 5
    · simp [h1, h2, show 4 + (i - 4) = i by omega]
    · by_cases h3 : i - 4 - 5 < 1
      · simp [show i = 9 by omega]
      · simp [h1, h2, h3, show i - 4 - 5 - 1 < 6 by omega, show 10 + (i - 4 - 5 - 1) = i by omega]

theorem sideBit_getLsbD (s : Side) : (sideBit s).getLsbD 0 = decide (s = .even) := by cases s <;> rfl

@[simp] theorem opField_encodeCw (i : Instr) : opField (encodeCw i) = opcode i :=
  (fields_of_layout _ _ _ _ _ rfl).1

@[simp] theorem sideField_encodeCw (i : Instr) : sideField (encodeCw i) = i.side.getD .odd := by
  unfold sideField
  rw [(fields_of_layout _ _ _ _ (encodeCw i) rfl).2.1, sideBit_getLsbD]
  cases i.side.getD .odd <;> rfl

@[simp] theorem idxField_encodeCw (i : Instr) : idxField (encodeCw i) = i.slotIdx.getD 0 :=
  (fields_of_layout _ _ _ _ _ rfl).2.2.1

@[simp] theorem rsvField_encodeCw (i : Instr) : rsvField (encodeCw i) = 0 :=
  (fields_of_layout _ _ _ _ _ rfl).2.2.2

/-! ### The opcode map -/

/-- The opcode map gives a command back from its own opcode and operands. -/
theorem commandOf_opcode (i : Instr) :
    commandOf (opcode i) (i.side.getD .odd) (i.slotIdx.getD 0) (i.data.getD 0) = some i := by
  cases i <;> rfl

/-- What the opcode map can answer: a command of that opcode, with the operands it was given. -/
theorem commandOf_some {op : BitVec 6} {s : Side} {a : SlotIdx} {d : Word} {i : Instr}
    (h : commandOf op s a d = some i) :
    opcode i = op ∧ (∀ x ∈ i.side, x = s) ∧ (∀ x ∈ i.slotIdx, x = a) ∧ ∀ x ∈ i.data, x = d := by
  unfold commandOf at h
  split at h <;> cases h <;>
    exact ⟨rfl, by simp [Instr.side], by simp [Instr.slotIdx], by simp [Instr.data]⟩

/-! ### Decoding -/

/-- When decoding accepts a word, and what it answers then (30_encoding.md R115). -/
theorem decode_command_iff {A : Nat} {cw : CmdWord} {wd : Word} {i : Instr} :
    decode A cw wd = .command i ↔
      commandOf (opField cw) (sideField cw) (idxField cw) wd = some i ∧ rsvField cw = 0 ∧
      (i.side = none → sideField cw = .odd) ∧ (i.slotIdx = none → idxField cw = 0) ∧
      (i.slotIdx ≠ none → (idxField cw).toNat < A) := by
  unfold decode
  split
  · next h => simp [h]
  · next j h =>
    rw [h]
    by_cases h1 : rsvField cw ≠ 0
    · rw [if_pos h1]
      constructor
      · intro h; cases h
      · rintro ⟨-, h2, -⟩; exact absurd h2 h1
    · by_cases h2 : j.side = none ∧ sideField cw ≠ .odd
      · rw [if_neg h1, if_pos h2]
        constructor
        · intro h; cases h
        · rintro ⟨hj, -, h3, -⟩; cases hj; exact absurd (h3 h2.1) h2.2
      · by_cases h3 : j.slotIdx = none ∧ idxField cw ≠ 0
        · rw [if_neg h1, if_neg h2, if_pos h3]
          constructor
          · intro h; cases h
          · rintro ⟨hj, -, -, h4, -⟩; cases hj; exact absurd (h4 h3.1) h3.2
        · by_cases h4 : j.slotIdx ≠ none ∧ A ≤ (idxField cw).toNat
          · rw [if_neg h1, if_neg h2, if_neg h3, if_pos h4]
            constructor
            · intro h; cases h
            · rintro ⟨hj, -, -, -, h5⟩; cases hj; have := h5 h4.1; omega
          · rw [if_neg h1, if_neg h2, if_neg h3, if_neg h4]
            constructor
            · intro h; cases h
              refine ⟨rfl, by simpa using h1, fun hs => ?_, fun hs => ?_, fun hs => ?_⟩
              · by_contra hc; exact h2 ⟨hs, hc⟩
              · by_contra hc; exact h3 ⟨hs, hc⟩
              · by_contra hc; exact h4 ⟨hs, by omega⟩
            · rintro ⟨hj, -⟩; cases hj; rfl

end Sys2Proof
end

