-- ==== Sys2Proof/Laws/Ops.lean ====
section
/-! SUPPORT. What each shared operation over the cursors, the counts and the command port can do, said once. -/

namespace Sys2Proof.Machine

/-! ### The command port -/

@[simp] theorem respond_eq (rc : ResultCode) (d : Word) (s : State) : respond rc d s = .next (s.answer rc d) := rfl
@[simp] theorem fail_eq (rc : ResultCode) (s : State) : fail rc s = .next (s.answer rc 0) := rfl
@[simp] theorem ok_eq (d : Word) (s : State) : ok d s = .next (s.answer .ok d) := rfl

/-! ### Cursors -/

theorem advance_toNat {C : Nat} (c : Cursor) (h0 : 0 < C) (h : C ≤ 65535) : (advance C c).toNat = (c.toNat + 1) % C := by
  have := Nat.mod_lt (c.toNat + 1) h0
  simp only [advance, BitVec.toNat_ofNat]
  omega

theorem advance_lt {C : Nat} (c : Cursor) (h0 : 0 < C) (h : C ≤ 65535) : (advance C c).toNat < C := by
  rw [advance_toNat c h0 h]
  exact Nat.mod_lt _ h0

/-- `(x + 1) mod C` without a remainder. -/
theorem succ_mod_eq {x C : Nat} (h : x < C) : (x + 1) % C = if x + 1 = C then 0 else x + 1 := by
  split
  · next h' => rw [h', Nat.mod_self]
  · exact Nat.mod_eq_of_lt (by omega)

/-- The ring distance `(x - y - 1) mod C` without a remainder. -/
theorem ring_distance {x y C : Nat} (hx : x < C) (hy : y < C) :
    (((x : Int) - (y : Int) - 1) % (C : Int)).toNat = if y < x then x - y - 1 else x + C - y - 1 := by
  split
  · rw [Int.emod_eq_of_lt (by omega) (by omega)]; omega
  · rw [← Int.add_emod_right, Int.emod_eq_of_lt (by omega) (by omega)]; omega

namespace State.Inv

variable {s : State}

theorem cPos (h : s.Inv) : 0 < s.cfg.C := by have := h.cfgWf.1; omega
theorem cLe (h : s.Inv) : s.cfg.C ≤ 65535 := h.cfgWf.1.2.2.2.2.2
theorem pLe (h : s.Inv) : s.cfg.P ≤ 16 := by have := h.cfgWf.1; omega
theorem curLt (h : s.Inv) (side : Side) : (s.r.get side).toNat < s.cfg.C := by
  cases side
  · exact h.oddLt
  · exact h.evenLt

end State.Inv

/-- The unread count of a side without a remainder (40_fifo.md R141). -/
theorem unread_eq {s : State} (h : s.Inv) (side : Side) :
    s.unread side = if (s.r.get side).toNat < s.w.toNat then s.w.toNat - (s.r.get side).toNat - 1
      else s.w.toNat + s.cfg.C - (s.r.get side).toNat - 1 :=
  ring_distance h.wLt (h.curLt side)

theorem unread_lt {s : State} (h : s.Inv) (side : Side) : s.unread side < s.cfg.C := by
  have := h.wLt
  have := h.curLt side
  rw [unread_eq h]
  split <;> omega

/-! ### The unread count reads only the cursors and the configuration -/

@[simp] theorem unread_answer (s : State) (rc : ResultCode) (d : Word) (side : Side) :
    (s.answer rc d).unread side = s.unread side := rfl

@[simp] theorem wspace_answer (s : State) (rc : ResultCode) (d : Word) : (s.answer rc d).wspace = s.wspace := rfl

/-! ### The loop reset -/

/-- What the loop reset does: nothing, or a rewind and a count (40_fifo.md R148). -/
theorem loopReset_cases (s : State) :
    (s.loopReset = s ∧ ¬ (s.mode = .looping ∧ s.unread .odd = 0 ∧ s.unread .even = 0)) ∨
    (s.loopReset = { s with r := { odd := 0, even := 0 }, loopcnt := s.loopcnt + 1 } ∧
      s.mode = .looping ∧ s.unread .odd = 0 ∧ s.unread .even = 0) := by
  unfold State.loopReset
  split
  · next h => exact .inr ⟨rfl, h⟩
  · next h => exact .inl ⟨rfl, h⟩

/-! ### The busy state -/

/-- When a block is busy (42_dispatcher.md R244). -/
theorem busy_iff (s : State) : s.busy = true ↔ s.dstate ≠ .idle ∨ s.elapsed.toNat ≤ s.cfg.settle := by
  simp [State.busy]

end Sys2Proof.Machine
end

