-- ==== Sys2Proof/Laws/PerInstr.lean ====
section
/-! SUPPORT. Statements for all instructions, one lemma per constructor. -/

namespace Sys2Proof.Laws.EncodedShape

/-- The command word of an instruction has its opcode in bits 15..10 and zeros in the reserved bits and in each field it does
not use (30_encoding.md R111, R113). -/
def Statement (i : Instr) : Prop :=
  opField (encodeCw i) = opcode i ∧ rsvField (encodeCw i) = 0 ∧
  (i.side = none → sideField (encodeCw i) = .odd) ∧ (i.slotIdx = none → idxField (encodeCw i) = 0)

theorem shape (i : Instr) : Statement i :=
  ⟨opField_encodeCw i, rsvField_encodeCw i, fun h => by simp [h], fun h => by simp [h]⟩

theorem nop : Statement .nop := shape _
theorem ldpos (d : Word) : Statement (.ldpos d) := shape _
theorem ldpat (a : SlotIdx) (d : Word) : Statement (.ldpat a d) := shape _
theorem add : Statement .add := shape _
theorem next (s : Side) : Statement (.next s) := shape _
theorem peekpos (s : Side) : Statement (.peekpos s) := shape _
theorem peekpat (s : Side) (a : SlotIdx) : Statement (.peekpat s a) := shape _
theorem pkapos (s : Side) : Statement (.pkapos s) := shape _
theorem pkapat (s : Side) (a : SlotIdx) : Statement (.pkapat s a) := shape _
theorem rdspc (s : Side) : Statement (.rdspc s) := shape _
theorem rdspcmin : Statement .rdspcmin := shape _
theorem wrspc : Statement .wrspc := shape _
theorem merged (a : SlotIdx) : Statement (.merged a) := shape _
theorem setmode (v : Word) : Statement (.setmode v) := shape _
theorem getmode : Statement .getmode := shape _
theorem getloop : Statement .getloop := shape _
theorem clearall : Statement .clearall := shape _
theorem resetrd : Statement .resetrd := shape _
theorem setact (s : Side) (v : Word) : Statement (.setact s v) := shape _
theorem setpmode (v : Word) : Statement (.setpmode v) := shape _
theorem setsplit (v : Word) : Statement (.setsplit v) := shape _
theorem settmode (v : Word) : Statement (.settmode v) := shape _
theorem encode : Statement .encode := shape _
theorem encin : Statement .encin := shape _
theorem rdstg (v : Word) : Statement (.rdstg v) := shape _
theorem rdact (v : Word) : Statement (.rdact v) := shape _
theorem dispatch : Statement .dispatch := shape _
theorem isbusy : Statement .isbusy := shape _
theorem ackdone : Statement .ackdone := shape _
theorem setirq (v : Word) : Statement (.setirq v) := shape _
theorem rdstat : Statement .rdstat := shape _
theorem rdxfer : Statement .rdxfer := shape _
theorem rdport : Statement .rdport := shape _
theorem rdtmr : Statement .rdtmr := shape _
theorem rdelap : Statement .rdelap := shape _

end Sys2Proof.Laws.EncodedShape
end

