-- ==== Sys2Proof/Laws/State.lean ====
section
/-! SUPPORT. One lemma per field per update of the state, so that no later proof unfolds an update. -/

namespace Sys2Proof.Machine

@[simp] theorem Sides.get_odd {α : Type} (x : Sides α) : x.get .odd = x.odd := rfl
@[simp] theorem Sides.get_even {α : Type} (x : Sides α) : x.get .even = x.even := rfl
@[simp] theorem Sides.set_odd {α : Type} (x : Sides α) (v : α) : x.set .odd v = { x with odd := v } := rfl
@[simp] theorem Sides.set_even {α : Type} (x : Sides α) (v : α) : x.set .even v = { x with even := v } := rfl

@[simp] theorem Sides.get_set_same {α : Type} (x : Sides α) (s : Side) (v : α) : (x.set s v).get s = v := by cases s <;> rfl

theorem Sides.get_set_other {α : Type} (x : Sides α) {s t : Side} (v : α) (h : t ≠ s) : (x.set s v).get t = x.get t := by
  cases s <;> cases t <;> first | rfl | exact absurd rfl h

/-! ### State.answer -/

@[simp] theorem State.answer_cfg (s : State) (rc : ResultCode) (d : Word) : (s.answer rc d).cfg = s.cfg := rfl
@[simp] theorem State.answer_mem (s : State) (rc : ResultCode) (d : Word) : (s.answer rc d).mem = s.mem := rfl
@[simp] theorem State.answer_w (s : State) (rc : ResultCode) (d : Word) : (s.answer rc d).w = s.w := rfl
@[simp] theorem State.answer_r (s : State) (rc : ResultCode) (d : Word) : (s.answer rc d).r = s.r := rfl
@[simp] theorem State.answer_mode (s : State) (rc : ResultCode) (d : Word) : (s.answer rc d).mode = s.mode := rfl
@[simp] theorem State.answer_loopcnt (s : State) (rc : ResultCode) (d : Word) : (s.answer rc d).loopcnt = s.loopcnt := rfl
@[simp] theorem State.answer_act (s : State) (rc : ResultCode) (d : Word) : (s.answer rc d).act = s.act := rfl
@[simp] theorem State.answer_pmode (s : State) (rc : ResultCode) (d : Word) : (s.answer rc d).pmode = s.pmode := rfl
@[simp] theorem State.answer_split (s : State) (rc : ResultCode) (d : Word) : (s.answer rc d).split = s.split := rfl
@[simp] theorem State.answer_tmode (s : State) (rc : ResultCode) (d : Word) : (s.answer rc d).tmode = s.tmode := rfl
@[simp] theorem State.answer_dstate (s : State) (rc : ResultCode) (d : Word) : (s.answer rc d).dstate = s.dstate := rfl
@[simp] theorem State.answer_pairIdx (s : State) (rc : ResultCode) (d : Word) : (s.answer rc d).pairIdx = s.pairIdx := rfl
@[simp] theorem State.answer_tmr (s : State) (rc : ResultCode) (d : Word) : (s.answer rc d).tmr = s.tmr := rfl
@[simp] theorem State.answer_trigPend (s : State) (rc : ResultCode) (d : Word) : (s.answer rc d).trigPend = s.trigPend := rfl
@[simp] theorem State.answer_elapsed (s : State) (rc : ResultCode) (d : Word) : (s.answer rc d).elapsed = s.elapsed := rfl
@[simp] theorem State.answer_donePend (s : State) (rc : ResultCode) (d : Word) : (s.answer rc d).donePend = s.donePend := rfl
@[simp] theorem State.answer_irqEn (s : State) (rc : ResultCode) (d : Word) : (s.answer rc d).irqEn = s.irqEn := rfl
@[simp] theorem State.answer_port (s : State) (rc : ResultCode) (d : Word) : (s.answer rc d).port = s.port := rfl
@[simp] theorem State.answer_inputs (s : State) (rc : ResultCode) (d : Word) : (s.answer rc d).inputs = s.inputs := rfl
@[simp] theorem State.answer_response (s : State) (rc : ResultCode) (d : Word) : (s.answer rc d).response = some { rc := rc, rdata := d } := rfl

/-! ### State.advanceRead -/

@[simp] theorem State.advanceRead_cfg (s : State) (side : Side) : (s.advanceRead side).cfg = s.cfg := rfl
@[simp] theorem State.advanceRead_mem (s : State) (side : Side) : (s.advanceRead side).mem = s.mem := rfl
@[simp] theorem State.advanceRead_w (s : State) (side : Side) : (s.advanceRead side).w = s.w := rfl
@[simp] theorem State.advanceRead_r (s : State) (side : Side) : (s.advanceRead side).r = s.r.set side (advance s.cfg.C (s.r.get side)) := rfl
@[simp] theorem State.advanceRead_mode (s : State) (side : Side) : (s.advanceRead side).mode = s.mode := rfl
@[simp] theorem State.advanceRead_loopcnt (s : State) (side : Side) : (s.advanceRead side).loopcnt = s.loopcnt := rfl
@[simp] theorem State.advanceRead_act (s : State) (side : Side) : (s.advanceRead side).act = s.act := rfl
@[simp] theorem State.advanceRead_pmode (s : State) (side : Side) : (s.advanceRead side).pmode = s.pmode := rfl
@[simp] theorem State.advanceRead_split (s : State) (side : Side) : (s.advanceRead side).split = s.split := rfl
@[simp] theorem State.advanceRead_tmode (s : State) (side : Side) : (s.advanceRead side).tmode = s.tmode := rfl
@[simp] theorem State.advanceRead_dstate (s : State) (side : Side) : (s.advanceRead side).dstate = s.dstate := rfl
@[simp] theorem State.advanceRead_pairIdx (s : State) (side : Side) : (s.advanceRead side).pairIdx = s.pairIdx := rfl
@[simp] theorem State.advanceRead_tmr (s : State) (side : Side) : (s.advanceRead side).tmr = s.tmr := rfl
@[simp] theorem State.advanceRead_trigPend (s : State) (side : Side) : (s.advanceRead side).trigPend = s.trigPend := rfl
@[simp] theorem State.advanceRead_elapsed (s : State) (side : Side) : (s.advanceRead side).elapsed = s.elapsed := rfl
@[simp] theorem State.advanceRead_donePend (s : State) (side : Side) : (s.advanceRead side).donePend = s.donePend := rfl
@[simp] theorem State.advanceRead_irqEn (s : State) (side : Side) : (s.advanceRead side).irqEn = s.irqEn := rfl
@[simp] theorem State.advanceRead_port (s : State) (side : Side) : (s.advanceRead side).port = s.port := rfl
@[simp] theorem State.advanceRead_inputs (s : State) (side : Side) : (s.advanceRead side).inputs = s.inputs := rfl
@[simp] theorem State.advanceRead_response (s : State) (side : Side) : (s.advanceRead side).response = s.response := rfl

/-! ### State.rewind -/

@[simp] theorem State.rewind_cfg (s : State) : s.rewind.cfg = s.cfg := rfl
@[simp] theorem State.rewind_mem (s : State) : s.rewind.mem = s.mem := rfl
@[simp] theorem State.rewind_w (s : State) : s.rewind.w = s.w := rfl
@[simp] theorem State.rewind_r (s : State) : s.rewind.r = { odd := 0, even := 0 } := rfl
@[simp] theorem State.rewind_mode (s : State) : s.rewind.mode = s.mode := rfl
@[simp] theorem State.rewind_loopcnt (s : State) : s.rewind.loopcnt = s.loopcnt := rfl
@[simp] theorem State.rewind_act (s : State) : s.rewind.act = s.act := rfl
@[simp] theorem State.rewind_pmode (s : State) : s.rewind.pmode = s.pmode := rfl
@[simp] theorem State.rewind_split (s : State) : s.rewind.split = s.split := rfl
@[simp] theorem State.rewind_tmode (s : State) : s.rewind.tmode = s.tmode := rfl
@[simp] theorem State.rewind_dstate (s : State) : s.rewind.dstate = s.dstate := rfl
@[simp] theorem State.rewind_pairIdx (s : State) : s.rewind.pairIdx = s.pairIdx := rfl
@[simp] theorem State.rewind_tmr (s : State) : s.rewind.tmr = s.tmr := rfl
@[simp] theorem State.rewind_trigPend (s : State) : s.rewind.trigPend = s.trigPend := rfl
@[simp] theorem State.rewind_elapsed (s : State) : s.rewind.elapsed = s.elapsed := rfl
@[simp] theorem State.rewind_donePend (s : State) : s.rewind.donePend = s.donePend := rfl
@[simp] theorem State.rewind_irqEn (s : State) : s.rewind.irqEn = s.irqEn := rfl
@[simp] theorem State.rewind_port (s : State) : s.rewind.port = s.port := rfl
@[simp] theorem State.rewind_inputs (s : State) : s.rewind.inputs = s.inputs := rfl
@[simp] theorem State.rewind_response (s : State) : s.rewind.response = s.response := rfl

/-! ### State.pushEntry -/

@[simp] theorem State.pushEntry_cfg (s : State) : s.pushEntry.cfg = s.cfg := rfl
@[simp] theorem State.pushEntry_mem (s : State) : s.pushEntry.mem = s.mem.writeSlot s.w.toNat s.mem.operandEntry := rfl
@[simp] theorem State.pushEntry_w (s : State) : s.pushEntry.w = advance s.cfg.C s.w := rfl
@[simp] theorem State.pushEntry_r (s : State) : s.pushEntry.r = s.r := rfl
@[simp] theorem State.pushEntry_mode (s : State) : s.pushEntry.mode = s.mode := rfl
@[simp] theorem State.pushEntry_loopcnt (s : State) : s.pushEntry.loopcnt = s.loopcnt := rfl
@[simp] theorem State.pushEntry_act (s : State) : s.pushEntry.act = s.act := rfl
@[simp] theorem State.pushEntry_pmode (s : State) : s.pushEntry.pmode = s.pmode := rfl
@[simp] theorem State.pushEntry_split (s : State) : s.pushEntry.split = s.split := rfl
@[simp] theorem State.pushEntry_tmode (s : State) : s.pushEntry.tmode = s.tmode := rfl
@[simp] theorem State.pushEntry_dstate (s : State) : s.pushEntry.dstate = s.dstate := rfl
@[simp] theorem State.pushEntry_pairIdx (s : State) : s.pushEntry.pairIdx = s.pairIdx := rfl
@[simp] theorem State.pushEntry_tmr (s : State) : s.pushEntry.tmr = s.tmr := rfl
@[simp] theorem State.pushEntry_trigPend (s : State) : s.pushEntry.trigPend = s.trigPend := rfl
@[simp] theorem State.pushEntry_elapsed (s : State) : s.pushEntry.elapsed = s.elapsed := rfl
@[simp] theorem State.pushEntry_donePend (s : State) : s.pushEntry.donePend = s.donePend := rfl
@[simp] theorem State.pushEntry_irqEn (s : State) : s.pushEntry.irqEn = s.irqEn := rfl
@[simp] theorem State.pushEntry_port (s : State) : s.pushEntry.port = s.port := rfl
@[simp] theorem State.pushEntry_inputs (s : State) : s.pushEntry.inputs = s.inputs := rfl
@[simp] theorem State.pushEntry_response (s : State) : s.pushEntry.response = s.response := rfl

/-! ### State.countTick -/

@[simp] theorem State.countTick_cfg (s : State) : s.countTick.cfg = s.cfg := rfl
@[simp] theorem State.countTick_mem (s : State) : s.countTick.mem = s.mem := rfl
@[simp] theorem State.countTick_w (s : State) : s.countTick.w = s.w := rfl
@[simp] theorem State.countTick_r (s : State) : s.countTick.r = s.r := rfl
@[simp] theorem State.countTick_mode (s : State) : s.countTick.mode = s.mode := rfl
@[simp] theorem State.countTick_loopcnt (s : State) : s.countTick.loopcnt = s.loopcnt := rfl
@[simp] theorem State.countTick_act (s : State) : s.countTick.act = s.act := rfl
@[simp] theorem State.countTick_pmode (s : State) : s.countTick.pmode = s.pmode := rfl
@[simp] theorem State.countTick_split (s : State) : s.countTick.split = s.split := rfl
@[simp] theorem State.countTick_tmode (s : State) : s.countTick.tmode = s.tmode := rfl
@[simp] theorem State.countTick_dstate (s : State) : s.countTick.dstate = s.dstate := rfl
@[simp] theorem State.countTick_pairIdx (s : State) : s.countTick.pairIdx = s.pairIdx := rfl
@[simp] theorem State.countTick_tmr (s : State) : s.countTick.tmr = s.tmrNext := rfl
@[simp] theorem State.countTick_trigPend (s : State) : s.countTick.trigPend = s.trigPend := rfl
@[simp] theorem State.countTick_elapsed (s : State) : s.countTick.elapsed = s.elapsedNext := rfl
@[simp] theorem State.countTick_donePend (s : State) : s.countTick.donePend = s.donePend := rfl
@[simp] theorem State.countTick_irqEn (s : State) : s.countTick.irqEn = s.irqEn := rfl
@[simp] theorem State.countTick_port (s : State) : s.countTick.port = s.port := rfl
@[simp] theorem State.countTick_inputs (s : State) : s.countTick.inputs = s.inputs := rfl
@[simp] theorem State.countTick_response (s : State) : s.countTick.response = s.response := rfl

/-! ### State.pendEdge -/

@[simp] theorem State.pendEdge_cfg (s : State) : s.pendEdge.cfg = s.cfg := rfl
@[simp] theorem State.pendEdge_mem (s : State) : s.pendEdge.mem = s.mem := rfl
@[simp] theorem State.pendEdge_w (s : State) : s.pendEdge.w = s.w := rfl
@[simp] theorem State.pendEdge_r (s : State) : s.pendEdge.r = s.r := rfl
@[simp] theorem State.pendEdge_mode (s : State) : s.pendEdge.mode = s.mode := rfl
@[simp] theorem State.pendEdge_loopcnt (s : State) : s.pendEdge.loopcnt = s.loopcnt := rfl
@[simp] theorem State.pendEdge_act (s : State) : s.pendEdge.act = s.act := rfl
@[simp] theorem State.pendEdge_pmode (s : State) : s.pendEdge.pmode = s.pmode := rfl
@[simp] theorem State.pendEdge_split (s : State) : s.pendEdge.split = s.split := rfl
@[simp] theorem State.pendEdge_tmode (s : State) : s.pendEdge.tmode = s.tmode := rfl
@[simp] theorem State.pendEdge_dstate (s : State) : s.pendEdge.dstate = s.dstate := rfl
@[simp] theorem State.pendEdge_pairIdx (s : State) : s.pendEdge.pairIdx = s.pairIdx := rfl
@[simp] theorem State.pendEdge_tmr (s : State) : s.pendEdge.tmr = s.tmrNext := rfl
@[simp] theorem State.pendEdge_trigPend (s : State) : s.pendEdge.trigPend = (s.edge || s.trigPend) := rfl
@[simp] theorem State.pendEdge_elapsed (s : State) : s.pendEdge.elapsed = s.elapsedNext := rfl
@[simp] theorem State.pendEdge_donePend (s : State) : s.pendEdge.donePend = s.donePend := rfl
@[simp] theorem State.pendEdge_irqEn (s : State) : s.pendEdge.irqEn = s.irqEn := rfl
@[simp] theorem State.pendEdge_port (s : State) : s.pendEdge.port = s.port := rfl
@[simp] theorem State.pendEdge_inputs (s : State) : s.pendEdge.inputs = s.inputs := rfl
@[simp] theorem State.pendEdge_response (s : State) : s.pendEdge.response = s.response := rfl

/-! ### State.arm -/

@[simp] theorem State.arm_cfg (s : State) : s.arm.cfg = s.cfg := rfl
@[simp] theorem State.arm_mem (s : State) : s.arm.mem = s.mem := rfl
@[simp] theorem State.arm_w (s : State) : s.arm.w = s.w := rfl
@[simp] theorem State.arm_r (s : State) : s.arm.r = s.r := rfl
@[simp] theorem State.arm_mode (s : State) : s.arm.mode = s.mode := rfl
@[simp] theorem State.arm_loopcnt (s : State) : s.arm.loopcnt = s.loopcnt := rfl
@[simp] theorem State.arm_act (s : State) : s.arm.act = s.act := rfl
@[simp] theorem State.arm_pmode (s : State) : s.arm.pmode = s.pmode := rfl
@[simp] theorem State.arm_split (s : State) : s.arm.split = s.split := rfl
@[simp] theorem State.arm_tmode (s : State) : s.arm.tmode = s.tmode := rfl
@[simp] theorem State.arm_dstate (s : State) : s.arm.dstate = .inflight := rfl
@[simp] theorem State.arm_pairIdx (s : State) : s.arm.pairIdx = 0 := rfl
@[simp] theorem State.arm_tmr (s : State) : s.arm.tmr = 0 := rfl
@[simp] theorem State.arm_trigPend (s : State) : s.arm.trigPend = false := rfl
@[simp] theorem State.arm_elapsed (s : State) : s.arm.elapsed = s.elapsedNext := rfl
@[simp] theorem State.arm_donePend (s : State) : s.arm.donePend = s.donePend := rfl
@[simp] theorem State.arm_irqEn (s : State) : s.arm.irqEn = s.irqEn := rfl
@[simp] theorem State.arm_port (s : State) : s.arm.port = s.port := rfl
@[simp] theorem State.arm_inputs (s : State) : s.arm.inputs = s.inputs := rfl
@[simp] theorem State.arm_response (s : State) : s.arm.response = s.response := rfl

/-! ### State.drivePair -/

@[simp] theorem State.drivePair_cfg (s : State) : s.drivePair.cfg = s.cfg := rfl
@[simp] theorem State.drivePair_mem (s : State) : s.drivePair.mem = s.mem := rfl
@[simp] theorem State.drivePair_w (s : State) : s.drivePair.w = s.w := rfl
@[simp] theorem State.drivePair_r (s : State) : s.drivePair.r = s.r := rfl
@[simp] theorem State.drivePair_mode (s : State) : s.drivePair.mode = s.mode := rfl
@[simp] theorem State.drivePair_loopcnt (s : State) : s.drivePair.loopcnt = s.loopcnt := rfl
@[simp] theorem State.drivePair_act (s : State) : s.drivePair.act = s.act := rfl
@[simp] theorem State.drivePair_pmode (s : State) : s.drivePair.pmode = s.pmode := rfl
@[simp] theorem State.drivePair_split (s : State) : s.drivePair.split = s.split := rfl
@[simp] theorem State.drivePair_tmode (s : State) : s.drivePair.tmode = s.tmode := rfl
@[simp] theorem State.drivePair_dstate (s : State) : s.drivePair.dstate = s.dstate := rfl
@[simp] theorem State.drivePair_pairIdx (s : State) : s.drivePair.pairIdx = s.pairIdx + 1 := rfl
@[simp] theorem State.drivePair_tmr (s : State) : s.drivePair.tmr = s.tmrNext := rfl
@[simp] theorem State.drivePair_trigPend (s : State) : s.drivePair.trigPend = s.trigPend := rfl
@[simp] theorem State.drivePair_elapsed (s : State) : s.drivePair.elapsed = s.elapsedNext := rfl
@[simp] theorem State.drivePair_donePend (s : State) : s.drivePair.donePend = s.donePend := rfl
@[simp] theorem State.drivePair_irqEn (s : State) : s.drivePair.irqEn = s.irqEn := rfl
@[simp] theorem State.drivePair_port (s : State) : s.drivePair.port = s.mem.activeAt s.cfg.dbuf s.pairIdx.toNat := rfl
@[simp] theorem State.drivePair_inputs (s : State) : s.drivePair.inputs = s.inputs := rfl
@[simp] theorem State.drivePair_response (s : State) : s.drivePair.response = s.response := rfl

/-! ### State.complete -/

@[simp] theorem State.complete_cfg (s : State) : s.complete.cfg = s.cfg := rfl
@[simp] theorem State.complete_mem (s : State) : s.complete.mem = s.mem := rfl
@[simp] theorem State.complete_w (s : State) : s.complete.w = s.w := rfl
@[simp] theorem State.complete_r (s : State) : s.complete.r = s.r := rfl
@[simp] theorem State.complete_mode (s : State) : s.complete.mode = s.mode := rfl
@[simp] theorem State.complete_loopcnt (s : State) : s.complete.loopcnt = s.loopcnt := rfl
@[simp] theorem State.complete_act (s : State) : s.complete.act = s.act := rfl
@[simp] theorem State.complete_pmode (s : State) : s.complete.pmode = s.pmode := rfl
@[simp] theorem State.complete_split (s : State) : s.complete.split = s.split := rfl
@[simp] theorem State.complete_tmode (s : State) : s.complete.tmode = s.tmode := rfl
@[simp] theorem State.complete_dstate (s : State) : s.complete.dstate = .idle := rfl
@[simp] theorem State.complete_pairIdx (s : State) : s.complete.pairIdx = s.pairIdx + 1 := rfl
@[simp] theorem State.complete_tmr (s : State) : s.complete.tmr = s.tmrNext := rfl
@[simp] theorem State.complete_trigPend (s : State) : s.complete.trigPend = s.trigPend := rfl
@[simp] theorem State.complete_elapsed (s : State) : s.complete.elapsed = 0 := rfl
@[simp] theorem State.complete_donePend (s : State) : s.complete.donePend = true := rfl
@[simp] theorem State.complete_irqEn (s : State) : s.complete.irqEn = s.irqEn := rfl
@[simp] theorem State.complete_port (s : State) : s.complete.port = s.mem.activeAt s.cfg.dbuf s.pairIdx.toNat := rfl
@[simp] theorem State.complete_inputs (s : State) : s.complete.inputs = s.inputs := rfl
@[simp] theorem State.complete_response (s : State) : s.complete.response = s.response := rfl

/-! ### State.loopReset -/

@[simp] theorem State.loopReset_cfg (s : State) : s.loopReset.cfg = s.cfg := by unfold State.loopReset; split <;> rfl
@[simp] theorem State.loopReset_mem (s : State) : s.loopReset.mem = s.mem := by unfold State.loopReset; split <;> rfl
@[simp] theorem State.loopReset_w (s : State) : s.loopReset.w = s.w := by unfold State.loopReset; split <;> rfl
@[simp] theorem State.loopReset_mode (s : State) : s.loopReset.mode = s.mode := by unfold State.loopReset; split <;> rfl
@[simp] theorem State.loopReset_act (s : State) : s.loopReset.act = s.act := by unfold State.loopReset; split <;> rfl
@[simp] theorem State.loopReset_pmode (s : State) : s.loopReset.pmode = s.pmode := by unfold State.loopReset; split <;> rfl
@[simp] theorem State.loopReset_split (s : State) : s.loopReset.split = s.split := by unfold State.loopReset; split <;> rfl
@[simp] theorem State.loopReset_tmode (s : State) : s.loopReset.tmode = s.tmode := by unfold State.loopReset; split <;> rfl
@[simp] theorem State.loopReset_dstate (s : State) : s.loopReset.dstate = s.dstate := by unfold State.loopReset; split <;> rfl
@[simp] theorem State.loopReset_pairIdx (s : State) : s.loopReset.pairIdx = s.pairIdx := by unfold State.loopReset; split <;> rfl
@[simp] theorem State.loopReset_tmr (s : State) : s.loopReset.tmr = s.tmr := by unfold State.loopReset; split <;> rfl
@[simp] theorem State.loopReset_trigPend (s : State) : s.loopReset.trigPend = s.trigPend := by unfold State.loopReset; split <;> rfl
@[simp] theorem State.loopReset_elapsed (s : State) : s.loopReset.elapsed = s.elapsed := by unfold State.loopReset; split <;> rfl
@[simp] theorem State.loopReset_donePend (s : State) : s.loopReset.donePend = s.donePend := by unfold State.loopReset; split <;> rfl
@[simp] theorem State.loopReset_irqEn (s : State) : s.loopReset.irqEn = s.irqEn := by unfold State.loopReset; split <;> rfl
@[simp] theorem State.loopReset_port (s : State) : s.loopReset.port = s.port := by unfold State.loopReset; split <;> rfl
@[simp] theorem State.loopReset_inputs (s : State) : s.loopReset.inputs = s.inputs := by unfold State.loopReset; split <;> rfl
@[simp] theorem State.loopReset_response (s : State) : s.loopReset.response = s.response := by unfold State.loopReset; split <;> rfl

/-! ### State.applyReset -/

@[simp] theorem State.applyReset_cfg (s : State) : s.applyReset.cfg = s.cfg := rfl
@[simp] theorem State.applyReset_mem (s : State) : s.applyReset.mem = Memory.zero s.cfg := rfl
@[simp] theorem State.applyReset_w (s : State) : s.applyReset.w = 1 := rfl
@[simp] theorem State.applyReset_r (s : State) : s.applyReset.r = { odd := 0, even := 0 } := rfl
@[simp] theorem State.applyReset_mode (s : State) : s.applyReset.mode = .clearing := rfl
@[simp] theorem State.applyReset_loopcnt (s : State) : s.applyReset.loopcnt = 0 := rfl
@[simp] theorem State.applyReset_act (s : State) : s.applyReset.act = { odd := true, even := true } := rfl
@[simp] theorem State.applyReset_pmode (s : State) : s.applyReset.pmode = .both := rfl
@[simp] theorem State.applyReset_split (s : State) : s.applyReset.split = .one := rfl
@[simp] theorem State.applyReset_tmode (s : State) : s.applyReset.tmode = .short := rfl
@[simp] theorem State.applyReset_dstate (s : State) : s.applyReset.dstate = .idle := rfl
@[simp] theorem State.applyReset_pairIdx (s : State) : s.applyReset.pairIdx = 0 := rfl
@[simp] theorem State.applyReset_tmr (s : State) : s.applyReset.tmr = 0 := rfl
@[simp] theorem State.applyReset_trigPend (s : State) : s.applyReset.trigPend = false := rfl
@[simp] theorem State.applyReset_elapsed (s : State) : s.applyReset.elapsed = BitVec.ofNat 32 (s.cfg.settle + 1) := rfl
@[simp] theorem State.applyReset_donePend (s : State) : s.applyReset.donePend = false := rfl
@[simp] theorem State.applyReset_irqEn (s : State) : s.applyReset.irqEn = false := rfl
@[simp] theorem State.applyReset_port (s : State) : s.applyReset.port = 0 := rfl
@[simp] theorem State.applyReset_inputs (s : State) : s.applyReset.inputs = s.inputs := rfl
@[simp] theorem State.applyReset_response (s : State) : s.applyReset.response = none := rfl

end Sys2Proof.Machine
end

