-- ==== Sys2Proof/Laws/Tick.lean ====
section
/-! SUPPORT. What one tick can do, said once, and the laws of n ticks. -/

namespace Sys2Proof.Machine

/-- What a tick can do (42_dispatcher.md R241). -/
theorem tick_cases (s : State) :
    (s.dstate = .idle ∧ tick s = s.pendEdge) ∨
    (s.dstate = .arming ∧ s.tmrNext.toNat = s.cfg.align ∧ tick s = s.arm) ∨
    (s.dstate = .arming ∧ s.tmrNext.toNat ≠ s.cfg.align ∧ tick s = s.pendEdge) ∨
    (s.dstate = .inflight ∧ s.tmr.toNat = s.cfg.tmrTop ∧ s.pairIdx.toNat + 1 = s.cfg.regionPairs ∧ tick s = s.complete) ∨
    (s.dstate = .inflight ∧ s.tmr.toNat = s.cfg.tmrTop ∧ s.pairIdx.toNat + 1 ≠ s.cfg.regionPairs ∧
      tick s = s.drivePair) ∨
    (s.dstate = .inflight ∧ s.tmr.toNat ≠ s.cfg.tmrTop ∧ tick s = s.countTick) := by
  unfold tick
  cases hd : s.dstate with
  | idle => simp
  | arming => by_cases h : s.tmrNext.toNat = s.cfg.align <;> simp [h]
  | inflight =>
    by_cases he : s.tmr.toNat = s.cfg.tmrTop
    · by_cases hl : s.pairIdx.toNat + 1 = s.cfg.regionPairs <;> simp [State.edge, State.lastPair, he, hl]
    · simp [State.edge, he]

/-- A tick changes neither the configuration nor the storage, the schedule or the answer. -/
@[simp] theorem tick_cfg (s : State) : (tick s).cfg = s.cfg := by
  rcases tick_cases s with ⟨-, h⟩ | ⟨-, -, h⟩ | ⟨-, -, h⟩ | ⟨-, -, -, h⟩ | ⟨-, -, -, h⟩ | ⟨-, -, h⟩ <;> rw [h] <;> rfl

@[simp] theorem tick_mem (s : State) : (tick s).mem = s.mem := by
  rcases tick_cases s with ⟨-, h⟩ | ⟨-, -, h⟩ | ⟨-, -, h⟩ | ⟨-, -, -, h⟩ | ⟨-, -, -, h⟩ | ⟨-, -, h⟩ <;> rw [h] <;> rfl

@[simp] theorem tick_inputs (s : State) : (tick s).inputs = s.inputs := by
  rcases tick_cases s with ⟨-, h⟩ | ⟨-, -, h⟩ | ⟨-, -, h⟩ | ⟨-, -, -, h⟩ | ⟨-, -, -, h⟩ | ⟨-, -, h⟩ <;> rw [h] <;> rfl

@[simp] theorem tick_response (s : State) : (tick s).response = s.response := by
  rcases tick_cases s with ⟨-, h⟩ | ⟨-, -, h⟩ | ⟨-, -, h⟩ | ⟨-, -, -, h⟩ | ⟨-, -, -, h⟩ | ⟨-, -, h⟩ <;> rw [h] <;> rfl

/-! ### The counters -/

theorem tmrNext_toNat {s : State} (h : s.Inv) : s.tmrNext.toNat = (s.tmr.toNat + 1) % s.cfg.period := by
  have h1 := h.tmrLe
  have h2 := h.cfgWf.2.2.1.2
  unfold State.tmrNext Config.period
  by_cases he : s.tmr.toNat = s.cfg.tmrTop
  · simp [State.edge, he]
  · rw [Nat.mod_eq_of_lt (by omega)]
    simp only [State.edge, he, decide_false, Bool.false_eq_true, if_false, BitVec.toNat_add]
    simp
    omega

theorem elapsedNext_toNat {s : State} (h : s.Inv) : s.elapsedNext.toNat = min (s.elapsed.toNat + 1) (s.cfg.settle + 1) := by
  have h1 : s.cfg.settle ≤ 2 ^ 32 - 2 := h.cfgWf.2.2.2.1
  simp only [State.elapsedNext, BitVec.toNat_ofNat]
  omega

/-- While a transfer is armed or in flight the settle counter is saturated and stays so. -/
theorem elapsedNext_eq {s : State} (h : s.Inv) (hd : s.dstate ≠ .idle) : s.elapsedNext = s.elapsed := by
  have h1 := h.settled hd
  have h2 := h.elapsedLe
  apply BitVec.eq_of_toNat_eq
  rw [elapsedNext_toNat h]
  omega

theorem pairIdx_succ {s : State} (h : s.Inv) (hd : s.dstate = .inflight) : (s.pairIdx + 1).toNat = s.pairIdx.toNat + 1 := by
  have h1 := h.pairLt hd
  have h2 := h.cfgWf.2.1.2
  rw [BitVec.toNat_add]
  simp
  omega

/-! ### n ticks -/

theorem ticks_add (m n : Nat) (s : State) : ticks (m + n) s = ticks n (ticks m s) := by
  induction m generalizing s with
  | zero => simp [ticks]
  | succ m ih => rw [Nat.succ_add]; exact ih (tick s)

theorem ticks_succ (n : Nat) (s : State) : ticks (n + 1) s = tick (ticks n s) := ticks_add n 1 s

@[simp] theorem ticks_cfg (n : Nat) (s : State) : (ticks n s).cfg = s.cfg := by
  induction n generalizing s with
  | zero => rfl
  | succ n ih => exact (ih (tick s)).trans (tick_cfg s)

@[simp] theorem ticks_mem (n : Nat) (s : State) : (ticks n s).mem = s.mem := by
  induction n generalizing s with
  | zero => rfl
  | succ n ih => exact (ih (tick s)).trans (tick_mem s)

/-- The next timer count (42_dispatcher.md R241 step 1). -/
theorem tmrNext_eq {s : State} (h : s.Inv) : s.tmrNext = BitVec.ofNat 16 ((s.tmr.toNat + 1) % s.cfg.period) := by
  apply BitVec.eq_of_toNat_eq
  rw [tmrNext_toNat h, BitVec.toNat_ofNat]
  have : (s.tmr.toNat + 1) % s.cfg.period < s.cfg.period := Nat.mod_lt _ (Nat.succ_pos _)
  have h2 := h.cfgWf.2.2.1.2
  unfold Config.period at *
  omega

/-- At a trigger edge the timer restarts at 0. -/
theorem tmrNext_edge {s : State} (ht : s.tmr.toNat = s.cfg.tmrTop) : s.tmrNext = 0 := by
  simp [State.tmrNext, State.edge, ht]

theorem pairIdx_eq {s : State} (h : s.Inv) (hd : s.dstate = .inflight) :
    s.pairIdx + 1 = BitVec.ofNat 16 (s.pairIdx.toNat + 1) := by
  apply BitVec.eq_of_toNat_eq
  rw [pairIdx_succ h hd, BitVec.toNat_ofNat]
  have := h.pairLt hd
  have := h.cfgWf.2.1.2
  omega

end Sys2Proof.Machine
end

