-- ==== Sys2Proof/Laws/Step.lean ====
section
/-! SUPPORT. What a command, an event and a step can do, said once. -/

namespace Sys2Proof.Machine

/-! ### The commands that can fail, and the setters -/

/-- What ADD can do (40_fifo.md R147). -/
theorem execAdd_cases (s : State) :
    (s.wspace = 0 ∧ execAdd s = .next (s.answer .full 0)) ∨
    (s.wspace ≠ 0 ∧ execAdd s = .next (s.pushEntry.answer .ok (countWord s.pushEntry.wspace))) := by
  unfold execAdd
  by_cases h : s.wspace = 0 <;> simp [h]

/-- What NEXT can do (40_fifo.md R148). -/
theorem execNext_cases (side : Side) (s : State) :
    (s.unread side = 0 ∧ execNext side s = .next (s.answer .empty 0)) ∨
    (s.unread side ≠ 0 ∧ execNext side s = .next ((s.advanceRead side).loopReset.answer .ok
      (countWord ((s.advanceRead side).loopReset.unread side)))) := by
  unfold execNext
  by_cases h : s.unread side = 0 <;> simp [h]

/-- What a look-ahead read can do (40_fifo.md R151). -/
theorem execPkapos_cases (side : Side) (s : State) :
    (s.unread side = 0 ∧ execPkapos side s = .next (s.answer .empty 0)) ∨
    (s.unread side ≠ 0 ∧ execPkapos side s = .next (s.answer .ok (s.mem.slotPos (s.nxtSlot side)))) := by
  unfold execPkapos
  by_cases h : s.unread side = 0 <;> simp [h]

/-- What a look-ahead pattern read can do (40_fifo.md R152). -/
theorem execPkapat_cases (side : Side) (a : SlotIdx) (s : State) :
    (s.unread side = 0 ∧ execPkapat side a s = .next (s.answer .empty 0)) ∨
    (s.unread side ≠ 0 ∧
      execPkapat side a s = .next (s.answer .ok ((s.mem.slotPat (s.nxtSlot side) a.toNat).setWidth 32))) := by
  unfold execPkapat
  by_cases h : s.unread side = 0 <;> simp [h]

/-- What an encode can do (41_encoder.md R209, R210). -/
theorem encodeInto_cases (pat : List Mask) (s : State) :
    (s.encodeHazard = true ∧ encodeInto pat s = .next (s.answer .hazard 0)) ∨
    (s.encodeHazard = false ∧ encodeInto pat s = .next (State.answer
      { s with mem := s.mem.writeStage (enc s.cfg pat s.split.count s.tmode.num) } .ok
      (encodeLengths s.cfg s.split.count s.tmode.num))) := by
  unfold encodeInto
  cases h : s.encodeHazard <;> simp

/-- What DISPATCH can do (42_dispatcher.md R250). -/
theorem execDispatch_cases (s : State) :
    (s.busy = true ∧ execDispatch s = .next (s.answer .busy 0)) ∨
    (s.busy = false ∧ execDispatch s = .next (State.answer
      { s with mem := s.mem.copyToActive s.cfg.dbuf, trigPend := false, dstate := .arming } .ok 0)) := by
  unfold execDispatch
  cases h : s.busy <;> simp

/-- What a read of a staging pair can do (41_encoder.md R211). -/
theorem execRdstg_cases (i : Word) (s : State) :
    (s.cfg.regionPairs ≤ i.toNat ∧ execRdstg i s = .next (s.answer .illegal 0)) ∨
    (i.toNat < s.cfg.regionPairs ∧ execRdstg i s = .next (s.answer .ok ((s.mem.stageAt i.toNat).setWidth 32))) := by
  unfold execRdstg indexOperand
  by_cases h : s.cfg.regionPairs ≤ i.toNat
  · simp [h]
  · simp [h, Nat.lt_of_not_le h]

/-- What a read of an active pair can do (41_encoder.md R212). -/
theorem execRdact_cases (i : Word) (s : State) :
    (s.cfg.regionPairs ≤ i.toNat ∧ execRdact i s = .next (s.answer .illegal 0)) ∨
    (i.toNat < s.cfg.regionPairs ∧
      execRdact i s = .next (s.answer .ok ((s.mem.activeAt s.cfg.dbuf i.toNat).setWidth 32))) := by
  unfold execRdact indexOperand
  by_cases h : s.cfg.regionPairs ≤ i.toNat
  · simp [h]
  · simp [h, Nat.lt_of_not_le h]

/-- What SETMODE can do (40_fifo.md R160). -/
theorem execSetmode_cases (v : Word) (s : State) :
    (∃ m, modeOperand v = some m ∧ execSetmode v s = .next (State.answer { s with mode := m } .ok 1)) ∨
    (modeOperand v = none ∧ execSetmode v s = .next (s.answer .ok 0)) := by
  unfold execSetmode
  cases h : modeOperand v <;> simp

/-- What SETPMODE can do (40_fifo.md R158). -/
theorem execSetpmode_cases (v : Word) (s : State) :
    (∃ m, printModeOperand v = some m ∧ execSetpmode v s = .next (State.answer { s with pmode := m } .ok 1)) ∨
    (printModeOperand v = none ∧ execSetpmode v s = .next (s.answer .ok 0)) := by
  unfold execSetpmode
  cases h : printModeOperand v <;> simp

/-- What SETACT can do (40_fifo.md R156). -/
theorem execSetact_cases (side : Side) (v : Word) (s : State) :
    (∃ b, bitOperand v = some b ∧ execSetact side v s = .next (State.answer { s with act := s.act.set side b } .ok 1)) ∨
    (bitOperand v = none ∧ execSetact side v s = .next (s.answer .ok 0)) := by
  unfold execSetact
  cases h : bitOperand v <;> simp

/-- What SETTMODE can do (41_encoder.md R205). -/
theorem execSettmode_cases (v : Word) (s : State) :
    (∃ t, timingOperand v = some t ∧ execSettmode v s = .next (State.answer { s with tmode := t } .ok 1)) ∨
    (timingOperand v = none ∧ execSettmode v s = .next (s.answer .ok 0)) := by
  unfold execSettmode
  cases h : timingOperand v <;> simp

/-- What SETIRQ can do (42_dispatcher.md R254). -/
theorem execSetirq_cases (v : Word) (s : State) :
    (∃ b, bitOperand v = some b ∧ execSetirq v s = .next (State.answer { s with irqEn := b } .ok 1)) ∨
    (bitOperand v = none ∧ execSetirq v s = .next (s.answer .ok 0)) := by
  unfold execSetirq
  cases h : bitOperand v <;> simp

/-! ### How a data word is read -/

/-- A value SETMODE applies selects the mode of that number (40_fifo.md R160). -/
theorem modeOperand_some {v : Word} {m : Mode} (h : modeOperand v = some m) : m.code.toNat = v.toNat := by
  unfold modeOperand at h
  split at h <;> cases h <;> simp_all [Mode.code]

theorem modeOperand_none {v : Word} : modeOperand v = none ↔ 3 ≤ v.toNat := by
  unfold modeOperand
  split <;> simp_all
  omega

theorem printModeOperand_some {v : Word} {m : PrintMode} (h : printModeOperand v = some m) : m.code.toNat = v.toNat := by
  unfold printModeOperand at h
  split at h <;> cases h <;> simp_all [PrintMode.code]

theorem printModeOperand_none {v : Word} : printModeOperand v = none ↔ 3 ≤ v.toNat := by
  unfold printModeOperand
  split <;> simp_all
  omega

theorem timingOperand_some {v : Word} {t : TimingMode} (h : timingOperand v = some t) : t.num = v.toNat := by
  unfold timingOperand at h
  split at h <;> cases h <;> simp_all [TimingMode.num]

theorem timingOperand_none {v : Word} : timingOperand v = none ↔ 2 ≤ v.toNat := by
  unfold timingOperand
  split <;> simp_all
  omega

theorem bitOperand_some {v : Word} {b : Bool} (h : bitOperand v = some b) : b.toNat = v.toNat := by
  unfold bitOperand at h
  split at h <;> cases h <;> simp_all

theorem bitOperand_none {v : Word} : bitOperand v = none ↔ 2 ≤ v.toNat := by
  unfold bitOperand
  split <;> simp_all
  omega

/-- SETSPLIT clamps to 1..4 (41_encoder.md R204). -/
theorem splitOperand_count (v : Word) : (splitOperand v).count = max 1 (min 4 v.toNat) := by
  unfold splitOperand
  split <;> simp_all [Split.count]
  omega

/-! ### Every command answers -/

/-- Every command ends with an answer; one that fails writes nothing else and answers RDATA = 0 (60_exceptions.md R301). -/
theorem exec_answers (i : Instr) (s : State) :
    ∃ t rc d, exec i s = .next (t.answer rc d) ∧ (rc ≠ .ok → t = s ∧ d = 0) := by
  have okay : ∀ (t : State) (d : Word), ∃ t' rc d', Host.Outcome.next (φ := Fault) (ρ := Refusal) (t.answer .ok d) =
      .next (t'.answer rc d') ∧ (rc ≠ .ok → t' = s ∧ d' = 0) := fun t d => ⟨t, .ok, d, rfl, fun h => absurd rfl h⟩
  have failing : ∀ rc : ResultCode, ∃ t' rc' d', Host.Outcome.next (φ := Fault) (ρ := Refusal) (s.answer rc 0) =
      .next (t'.answer rc' d') ∧ (rc' ≠ .ok → t' = s ∧ d' = 0) := fun rc => ⟨s, rc, 0, rfl, fun _ => ⟨rfl, rfl⟩⟩
  cases i with
  | add => rcases execAdd_cases s with ⟨-, h⟩ | ⟨-, h⟩ <;> simp only [exec, h] <;> first | exact failing _ | exact okay _ _
  | next side =>
    rcases execNext_cases side s with ⟨-, h⟩ | ⟨-, h⟩ <;> simp only [exec, h] <;> first | exact failing _ | exact okay _ _
  | pkapos side =>
    rcases execPkapos_cases side s with ⟨-, h⟩ | ⟨-, h⟩ <;> simp only [exec, h] <;> first | exact failing _ | exact okay _ _
  | pkapat side a =>
    rcases execPkapat_cases side a s with ⟨-, h⟩ | ⟨-, h⟩ <;> simp only [exec, h] <;>
      first | exact failing _ | exact okay _ _
  | encode =>
    rcases encodeInto_cases s.mergedPattern s with ⟨-, h⟩ | ⟨-, h⟩ <;> simp only [exec, execEncode, h] <;>
      first | exact failing _ | exact okay _ _
  | encin =>
    rcases encodeInto_cases s.mem.inPat s with ⟨-, h⟩ | ⟨-, h⟩ <;> simp only [exec, execEncin, h] <;>
      first | exact failing _ | exact okay _ _
  | dispatch =>
    rcases execDispatch_cases s with ⟨-, h⟩ | ⟨-, h⟩ <;> simp only [exec, h] <;> first | exact failing _ | exact okay _ _
  | rdstg v =>
    rcases execRdstg_cases v s with ⟨-, h⟩ | ⟨-, h⟩ <;> simp only [exec, h] <;> first | exact failing _ | exact okay _ _
  | rdact v =>
    rcases execRdact_cases v s with ⟨-, h⟩ | ⟨-, h⟩ <;> simp only [exec, h] <;> first | exact failing _ | exact okay _ _
  | setmode v => rcases execSetmode_cases v s with ⟨_, -, h⟩ | ⟨-, h⟩ <;> simp only [exec, h] <;> exact okay _ _
  | setpmode v => rcases execSetpmode_cases v s with ⟨_, -, h⟩ | ⟨-, h⟩ <;> simp only [exec, h] <;> exact okay _ _
  | setact side v => rcases execSetact_cases side v s with ⟨_, -, h⟩ | ⟨-, h⟩ <;> simp only [exec, h] <;> exact okay _ _
  | settmode v => rcases execSettmode_cases v s with ⟨_, -, h⟩ | ⟨-, h⟩ <;> simp only [exec, h] <;> exact okay _ _
  | setirq v => rcases execSetirq_cases v s with ⟨_, -, h⟩ | ⟨-, h⟩ <;> simp only [exec, h] <;> exact okay _ _
  | _ => exact okay _ _

/-! ### Events and steps -/

/-- What a command transaction can do (30_encoding.md R115). -/
theorem runCommand_cases (cw : CmdWord) (wd : Word) (s : State) :
    (∃ i, decode s.cfg.A cw wd = .command i ∧ runCommand cw wd s = exec i s) ∨
    (∃ e, decode s.cfg.A cw wd = .illegal e ∧ runCommand cw wd s = .next (s.answer .illegal 0)) := by
  unfold runCommand
  cases h : decode s.cfg.A cw wd <;> simp

/-- What an event can do (00_scope.md R7). -/
theorem perform_cases {e : Event} {s t : State} (h : perform e s = .next t) :
    (∃ cw wd i, e = .command cw wd ∧ decode s.cfg.A cw wd = .command i ∧ exec i s = .next t) ∨
    (∃ cw wd err, e = .command cw wd ∧ decode s.cfg.A cw wd = .illegal err ∧ t = s.answer .illegal 0) ∨
    (e = .tick ∧ t = tick s) ∨ (e = .reset ∧ t = s.applyReset) := by
  cases e with
  | command cw wd =>
    rcases runCommand_cases cw wd s with ⟨i, hi, hr⟩ | ⟨err, he, hr⟩
    · exact .inl ⟨cw, wd, i, rfl, hi, hr ▸ h⟩
    · refine .inr (.inl ⟨cw, wd, err, rfl, he, ?_⟩)
      have : runCommand cw wd s = .next t := h
      rw [hr] at this
      cases this
      rfl
  | tick => exact .inr (.inr (.inl ⟨rfl, by cases h; rfl⟩))
  | reset => exact .inr (.inr (.inr ⟨rfl, by cases h; rfl⟩))

/-- What a step can do. -/
theorem step_cases {s t : State} (h : step s = .next t) :
    s.cfg.Wf ∧ ((s.inputs = [] ∧ t = s) ∨
      ∃ e rest, s.inputs = e :: rest ∧ perform e { s with inputs := rest } = .next t) := by
  unfold step at h
  split at h
  · next hw =>
    refine ⟨hw, ?_⟩
    split at h
    · next hi => cases h; exact .inl ⟨hi, rfl⟩
    · next e rest hi => exact .inr ⟨e, rest, hi, h⟩
  · cases h

/-! ### The invariant and the command port -/

/-- An answer keeps the invariant if a failing code comes with RDATA = 0. -/
theorem inv_answer {s : State} (h : s.Inv) {rc : ResultCode} {d : Word} (hd : rc ≠ .ok → d = 0) : (s.answer rc d).Inv :=
  { h with answered := by intro a ha; cases ha; exact hd }

/-- The invariant does not look at the schedule. -/
theorem inv_inputs {s : State} (h : s.Inv) (l : List Event) : State.Inv { s with inputs := l } := { h with }

/-- What no command writes (10_state.md R58). -/
theorem exec_frame {i : Instr} {s t : State} (h : exec i s = .next t) :
    t.inputs = s.inputs ∧ t.cfg = s.cfg ∧ t.port = s.port ∧ t.pairIdx = s.pairIdx ∧ t.tmr = s.tmr ∧ t.elapsed = s.elapsed := by
  cases i with
  | add =>
    rcases execAdd_cases s with ⟨-, h'⟩ | ⟨-, h'⟩ <;> simp only [exec, h'] at h <;> cases h <;>
      exact ⟨rfl, rfl, rfl, rfl, rfl, rfl⟩
  | next side =>
    rcases execNext_cases side s with ⟨-, h'⟩ | ⟨-, h'⟩ <;> simp only [exec, h'] at h
    · cases h; exact ⟨rfl, rfl, rfl, rfl, rfl, rfl⟩
    · rcases loopReset_cases (s.advanceRead side) with ⟨e, -⟩ | ⟨e, -⟩ <;> rw [e] at h <;> cases h <;>
        exact ⟨rfl, rfl, rfl, rfl, rfl, rfl⟩
  | pkapos side =>
    rcases execPkapos_cases side s with ⟨-, h'⟩ | ⟨-, h'⟩ <;> simp only [exec, h'] at h <;> cases h <;>
      exact ⟨rfl, rfl, rfl, rfl, rfl, rfl⟩
  | pkapat side a =>
    rcases execPkapat_cases side a s with ⟨-, h'⟩ | ⟨-, h'⟩ <;> simp only [exec, h'] at h <;> cases h <;>
      exact ⟨rfl, rfl, rfl, rfl, rfl, rfl⟩
  | rdstg v =>
    rcases execRdstg_cases v s with ⟨-, h'⟩ | ⟨-, h'⟩ <;> simp only [exec, h'] at h <;> cases h <;>
      exact ⟨rfl, rfl, rfl, rfl, rfl, rfl⟩
  | rdact v =>
    rcases execRdact_cases v s with ⟨-, h'⟩ | ⟨-, h'⟩ <;> simp only [exec, h'] at h <;> cases h <;>
      exact ⟨rfl, rfl, rfl, rfl, rfl, rfl⟩
  | encode =>
    rcases encodeInto_cases s.mergedPattern s with ⟨-, h'⟩ | ⟨-, h'⟩ <;> simp only [exec, execEncode, h'] at h <;> cases h <;>
      exact ⟨rfl, rfl, rfl, rfl, rfl, rfl⟩
  | encin =>
    rcases encodeInto_cases s.mem.inPat s with ⟨-, h'⟩ | ⟨-, h'⟩ <;> simp only [exec, execEncin, h'] at h <;> cases h <;>
      exact ⟨rfl, rfl, rfl, rfl, rfl, rfl⟩
  | dispatch =>
    rcases execDispatch_cases s with ⟨-, h'⟩ | ⟨hb, h'⟩ <;> simp only [exec, h'] at h <;> cases h <;>
      exact ⟨rfl, rfl, rfl, rfl, rfl, rfl⟩
  | setmode v =>
    rcases execSetmode_cases v s with ⟨_, -, h'⟩ | ⟨-, h'⟩ <;> simp only [exec, h'] at h <;> cases h <;>
      exact ⟨rfl, rfl, rfl, rfl, rfl, rfl⟩
  | setpmode v =>
    rcases execSetpmode_cases v s with ⟨_, -, h'⟩ | ⟨-, h'⟩ <;> simp only [exec, h'] at h <;> cases h <;>
      exact ⟨rfl, rfl, rfl, rfl, rfl, rfl⟩
  | setact side v =>
    rcases execSetact_cases side v s with ⟨_, -, h'⟩ | ⟨-, h'⟩ <;> simp only [exec, h'] at h <;> cases h <;>
      exact ⟨rfl, rfl, rfl, rfl, rfl, rfl⟩
  | settmode v =>
    rcases execSettmode_cases v s with ⟨_, -, h'⟩ | ⟨-, h'⟩ <;> simp only [exec, h'] at h <;> cases h <;>
      exact ⟨rfl, rfl, rfl, rfl, rfl, rfl⟩
  | setirq v =>
    rcases execSetirq_cases v s with ⟨_, -, h'⟩ | ⟨-, h'⟩ <;> simp only [exec, h'] at h <;> cases h <;>
      exact ⟨rfl, rfl, rfl, rfl, rfl, rfl⟩
  | _ => cases h; exact ⟨rfl, rfl, rfl, rfl, rfl, rfl⟩

end Sys2Proof.Machine
end

