-- ==== Sys2Proof/Laws/Words.lean ====
section
/-! SUPPORT. Command words written as `OP<<10 | S<<9 | IDX<<4` (30_encoding.md R113), and how decoding reads them. -/

namespace Sys2Proof.Machine

/-- The sum of the shifted fields is the layout of the fields. -/
theorem word_layout (op : BitVec 6) (side : Side) (a : SlotIdx) :
    (op.setWidth 16 <<< 10) ||| sideBits side ||| idxBits a = op ++ sideBit side ++ a ++ 0#4 := by
  apply BitVec.eq_of_getLsbD_eq
  intro i hi
  rw [BitVec.getLsbD_or, BitVec.getLsbD_or]
  simp only [idxBits, BitVec.getLsbD_append, BitVec.getLsbD_shiftLeft, BitVec.getLsbD_setWidth]
  cases side <;> interval_cases i <;> simp [sideBits, sideBit]

/-- The fields of a word so written. -/
theorem fields_of_word (op : BitVec 6) (side : Side) (a : SlotIdx) {cw : CmdWord}
    (h : cw = (op.setWidth 16 <<< 10) ||| sideBits side ||| idxBits a) :
    opField cw = op ∧ sideField cw = side ∧ idxField cw = a ∧ rsvField cw = 0 := by
  obtain ⟨h1, h2, h3, h4⟩ := fields_of_layout op (sideBit side) a 0#4 cw (h.trans (word_layout op side a))
  refine ⟨h1, ?_, h3, h4⟩
  unfold sideField
  rw [h2, sideBit_getLsbD]
  cases side <;> rfl

/-- A word with an IDX field decodes exactly when the index is below A (30_encoding.md R115 check 5). -/
theorem decode_indexed_word {A : Nat} {op : BitVec 6} {side : Side} {a : SlotIdx} {wd : Word} {i : Instr} {cw : CmdWord}
    (h : cw = (op.setWidth 16 <<< 10) ||| sideBits side ||| idxBits a) (hc : commandOf op side a wd = some i)
    (hs : i.side = none → side = .odd) (hi : i.slotIdx ≠ none) :
    (a.toNat < A → decode A cw wd = .command i) ∧ (A ≤ a.toNat → ∃ e, decode A cw wd = .illegal e) := by
  obtain ⟨h1, h2, h3, h4⟩ := fields_of_word op side a h
  constructor
  · intro ha
    rw [decode_command_iff, h1, h2, h3]
    exact ⟨hc, h4, hs, fun h => absurd h hi, fun _ => ha⟩
  · intro ha
    cases hd : decode A cw wd with
    | illegal e => exact ⟨e, rfl⟩
    | command j =>
      rw [decode_command_iff, h1, h2, h3, hc] at hd
      obtain ⟨hj, -, -, -, h6⟩ := hd
      cases hj
      have := h6 hi
      omega

end Sys2Proof.Machine
end

