-- ==== Sys2Proof/Machine/Asm.lean ====
section
/-! DEFINITION. The assembler notation of the commands (30_encoding.md R118) over already split operands, and the
pseudo-instructions (R119), which the block sees only as their expansions. -/

namespace Sys2Proof.Machine

/-- An operand of an assembler line: a word (a side or a named value), a slot number, or a `#` number. -/
inductive AsmOperand where
  | word (text : String)
  | slot (a : Nat)
  | number (v : Int)
deriving DecidableEq, Repr

/-- The side operands. -/
def asmSide (text : String) : Option Side :=
  if text = "odd" then some .odd else if text = "even" then some .even else none

/-- A slot operand, a number that fits the IDX field; whether it is below A is for decoding to say (30_encoding.md R115). -/
def asmSlot (a : Nat) : Option SlotIdx := if a < 32 then some (BitVec.ofNat 5 a) else none

/-- A `#` number as WDATA, a negative number as its 32-bit two's complement; a number outside 32 bits is no data operand
(log entry 12). -/
def asmData (v : Int) : Option Word := if -2 ^ 31 ≤ v ∧ v < 2 ^ 32 then some (BitVec.ofInt 32 v) else none

/-- The named values of SETMODE. -/
def asmMode (text : String) : Option Word :=
  if text = "clearing" then some 0 else if text = "static" then some 1 else if text = "looping" then some 2 else none

/-- The named values of SETPMODE. -/
def asmPrintMode (text : String) : Option Word :=
  if text = "both" then some 0 else if text = "odd" then some 1 else if text = "even" then some 2 else none

/-- The named values of SETTMODE. -/
def asmTiming (text : String) : Option Word :=
  if text = "short" then some 0 else if text = "long" then some 1 else none

/-- The commands without operands. -/
def asmPlain (mnemonic : String) : Option Instr :=
  ([("NOP", .nop), ("ADD", .add), ("RDSPCMIN", .rdspcmin), ("WRSPC", .wrspc), ("GETMODE", .getmode), ("GETLOOP", .getloop),
    ("CLEARALL", .clearall), ("RESETRD", .resetrd), ("ENCODE", .encode), ("ENCIN", .encin), ("DISPATCH", .dispatch),
    ("ISBUSY", .isbusy), ("ACKDONE", .ackdone), ("RDSTAT", .rdstat), ("RDXFER", .rdxfer), ("RDPORT", .rdport),
    ("RDTMR", .rdtmr), ("RDELAP", .rdelap)] : List (String × Instr)).lookup mnemonic

/-- The commands with one data operand. -/
def asmDataCommand (mnemonic : String) (d : Word) : Option Instr :=
  ([("LDPOS", .ldpos d), ("SETMODE", .setmode d), ("SETPMODE", .setpmode d), ("SETSPLIT", .setsplit d),
    ("SETTMODE", .settmode d), ("RDSTG", .rdstg d), ("RDACT", .rdact d), ("SETIRQ", .setirq d)] :
    List (String × Instr)).lookup mnemonic

/-- The commands with one side operand. -/
def asmSideCommand (mnemonic : String) (s : Side) : Option Instr :=
  ([("NEXT", .next s), ("PEEKPOS", .peekpos s), ("PKAPOS", .pkapos s), ("RDSPC", .rdspc s)] :
    List (String × Instr)).lookup mnemonic

/-- The commands with a side and a slot operand. -/
def asmSideSlotCommand (mnemonic : String) (s : Side) (a : SlotIdx) : Option Instr :=
  ([("PEEKPAT", .peekpat s a), ("PKAPAT", .pkapat s a)] : List (String × Instr)).lookup mnemonic

/-- The named value a mnemonic takes as its only operand. -/
def asmNamed (mnemonic text : String) : Option Word :=
  if mnemonic = "SETMODE" then asmMode text
  else if mnemonic = "SETPMODE" then asmPrintMode text
  else if mnemonic = "SETTMODE" then asmTiming text
  else none

/-- The command of an assembler line (30_encoding.md R118); none for a line that has no listed form. -/
def assemble (mnemonic : String) : List AsmOperand → Option Instr
  | [] => asmPlain mnemonic
  | [.number v] => (asmData v).bind (asmDataCommand mnemonic)
  | [.word t] => ((asmNamed mnemonic t).bind (asmDataCommand mnemonic)).orElse fun _ =>
      (asmSide t).bind (asmSideCommand mnemonic)
  | [.slot a] => if mnemonic = "MERGED" then (asmSlot a).map Instr.merged else none
  | [.slot a, .number v] =>
    if mnemonic = "LDPAT" then (asmSlot a).bind fun i => (asmData v).map (Instr.ldpat i) else none
  | [.word t, .number v] =>
    if mnemonic = "SETACT" then (asmSide t).bind fun s => (asmData v).map (Instr.setact s) else none
  | [.word t, .slot a] => (asmSide t).bind fun s => (asmSlot a).bind (asmSideSlotCommand mnemonic s)
  | _ => none

/-- `LDPAT a, #w` for the words of a list, from slot `a` on. -/
def loadPattern (a : Nat) : List Word → List Instr
  | [] => []
  | w :: ws => .ldpat (BitVec.ofNat 5 a) w :: loadPattern (a + 1) ws

/-- `PUSH #pos, words`: the pattern has A words (30_encoding.md R119). -/
def pushExpansion (pos : Word) (words : List Word) : List Instr := .ldpos pos :: loadPattern 0 words ++ [.add]

/-- `CLRPAT` for a block with A address slots (30_encoding.md R119). -/
def clrpatExpansion (A : Nat) : List Instr := loadPattern 0 (List.replicate A 0)

/-- `WAITIDLE`: a host-side loop, here the commands of a loop that polled `n` times (30_encoding.md R119). -/
def waitidleExpansion (n : Nat) : List Instr := List.replicate n .isbusy

/-- `PRINTSTEP` with a WAITIDLE that polled `n` times (30_encoding.md R119). -/
def printstepExpansion (n : Nat) : List Instr :=
  .encode :: waitidleExpansion n ++ [.dispatch, .next .odd, .next .even]

end Sys2Proof.Machine
end

