-- ==== Sys2Proof/Tests/Slice0.lean ====
section
/-! SUPPORT. Tests: ill-formed configurations and commands are refused; every opcode decodes from its word; one-step vectors of
95_test_vectors.md (named in the comments); a witness for every statement that has hypotheses. -/

namespace Sys2Proof.Tests

open Sys2Proof Sys2Proof.Machine

/-! ### Helpers -/

/-- The answer of an outcome. -/
def answerOf : Result → Option Response
  | .next t => t.response
  | _ => none

/-- The next state of an outcome, else the given one. -/
def after (s : State) : Result → State
  | .next t => t
  | _ => s

/-- The answer OK with a value. -/
def good (d : Word) : Option Response := some { rc := .ok, rdata := d }

/-- The answer of a failing command. -/
def bad (rc : ResultCode) : Option Response := some { rc := rc, rdata := 0 }

/-- The state after a command. -/
def run (i : Instr) (s : State) : State := after s (exec i s)

/-- Every command answers with a next state. -/
theorem exec_next (i : Instr) (s : State) : exec i s = .next (run i s) := by
  obtain ⟨t, rc, d, h, -⟩ := exec_answers i s
  unfold run
  rw [h]
  rfl

/-- SMALL after reset. -/
def small : State := State.resetWith Config.small

/-- SMALL with DBUF = 0 after reset. -/
def single : State := State.resetWith { Config.small with dbuf := false }

/-- REF after reset. -/
def ref : State := State.reset

/-! ### Well-formedness (00_scope.md R6): an ill-formed term for each check -/

theorem test_wf_ref : Config.ref.Wf := by decide +kernel
theorem test_wf_small : Config.small.Wf := by decide
theorem test_wf_check1_A : ¬ { Config.small with A := 0 }.Wf ∧ ¬ { Config.small with A := 33, regionPairs := 594 }.Wf := by
  decide
theorem test_wf_check1_P : ¬ { Config.small with P := 0 }.Wf ∧ ¬ { Config.small with P := 15 }.Wf := by decide
theorem test_wf_check1_C : ¬ { Config.small with C := 1 }.Wf ∧ ¬ { Config.small with C := 65536 }.Wf := by decide
theorem test_wf_check2 : ¬ { Config.small with regionPairs := 35 }.Wf ∧ ¬ { Config.small with regionPairs := 65536 }.Wf := by
  decide
theorem test_wf_check3 : ¬ { Config.small with align := 2 }.Wf ∧ ¬ { Config.small with tmrTop := 65536 }.Wf := by decide
theorem test_wf_check4 : ¬ { Config.small with settle := 2 ^ 32 - 1 }.Wf := by decide
theorem test_wf_check5_rows : ¬ { Config.small with splitTable := [[0x3FFF#16]] }.Wf := by decide
theorem test_wf_check5_length :
    ¬ { Config.small with splitTable := [[0x3FFF#16], [0x3FFF#16]] ++ Config.small.splitTable.drop 2 }.Wf := by decide
theorem test_wf_check5_disjoint :
    ¬ { Config.small with splitTable := [[0x3FFF#16], [0x1557#16, 0x2AAA#16]] ++ Config.small.splitTable.drop 2 }.Wf := by
  decide
theorem test_wf_check5_union :
    ¬ { Config.small with splitTable := [[0x1FFF#16]] ++ Config.small.splitTable.drop 1 }.Wf := by decide
theorem test_wf_check5_limit :
    ¬ { Config.small with splitTable := [[0x3FFF#16], [0x00FF#16, 0x3F00#16]] ++ Config.small.splitTable.drop 2 }.Wf := by
  decide
/-- SMALL with another port map. -/
def withMap (m : PortMap) : Config := { Config.small with pmap := m }

theorem test_wf_check6_distinct : ¬ (withMap ⟨List.range 14, 15, 15⟩).Wf := by decide
theorem test_wf_check6_range : ¬ (withMap ⟨List.range 14, 16, 15⟩).Wf := by decide
theorem test_wf_check6_lines : ¬ (withMap ⟨List.range 13, 14, 15⟩).Wf := by decide
theorem test_wf_instr : (Instr.ldpat 21 0).Wf 22 ∧ ¬ (Instr.ldpat 22 0).Wf 22 := by decide
theorem test_power_up_refuses : powerUp { Config.small with C := 1 } = .refused .illFormedConfig := rfl

/-! ### Decoding: every opcode from its word, written as OP, S, IDX, RSV bits (30_encoding.md R113) -/

theorem test_decode_fifo_operands (d : Word) :
    decode 22 0b0000010000000000#16 d = .command (.ldpos d) ∧
    decode 22 0b0000100101010000#16 d = .command (.ldpat 21 d) ∧
    decode 22 0b0000110000000000#16 d = .command .add ∧
    decode 22 0b0001001000000000#16 d = .command (.next .even) := ⟨rfl, rfl, rfl, rfl⟩

theorem test_decode_fifo_reads (d : Word) :
    decode 22 0b0001010000000000#16 d = .command (.peekpos .odd) ∧
    decode 22 0b0001101000010000#16 d = .command (.peekpat .even 1) ∧
    decode 22 0b0001111000000000#16 d = .command (.pkapos .even) ∧
    decode 22 0b0010000000100000#16 d = .command (.pkapat .odd 2) ∧
    decode 22 0b0010011000000000#16 d = .command (.rdspc .even) ∧
    decode 22 0b0010100000000000#16 d = .command .rdspcmin ∧
    decode 22 0b0010110000000000#16 d = .command .wrspc ∧
    decode 22 0b0011000010000000#16 d = .command (.merged 8) := ⟨rfl, rfl, rfl, rfl, rfl, rfl, rfl, rfl⟩

theorem test_decode_fifo_control (d : Word) :
    decode 22 0b0011010000000000#16 d = .command (.setmode d) ∧
    decode 22 0b0011100000000000#16 d = .command .getmode ∧
    decode 22 0b0011110000000000#16 d = .command .getloop ∧
    decode 22 0b0100000000000000#16 d = .command .clearall ∧
    decode 22 0b0100010000000000#16 d = .command .resetrd ∧
    decode 22 0b0100101000000000#16 d = .command (.setact .even d) ∧
    decode 22 0b0100110000000000#16 d = .command (.setpmode d) := ⟨rfl, rfl, rfl, rfl, rfl, rfl, rfl⟩

theorem test_decode_encoder (d : Word) :
    decode 22 0b1000000000000000#16 d = .command (.setsplit d) ∧
    decode 22 0b1000010000000000#16 d = .command (.settmode d) ∧
    decode 22 0b1000100000000000#16 d = .command .encode ∧
    decode 22 0b1000110000000000#16 d = .command .encin ∧
    decode 22 0b1001000000000000#16 d = .command (.rdstg d) ∧
    decode 22 0b1001010000000000#16 d = .command (.rdact d) := ⟨rfl, rfl, rfl, rfl, rfl, rfl⟩

theorem test_decode_dispatcher (d : Word) :
    decode 22 0b0000000000000000#16 d = .command .nop ∧
    decode 22 0b1100000000000000#16 d = .command .dispatch ∧
    decode 22 0b1100010000000000#16 d = .command .isbusy ∧
    decode 22 0b1100100000000000#16 d = .command .ackdone ∧
    decode 22 0b1100110000000000#16 d = .command (.setirq d) ∧
    decode 22 0b1101000000000000#16 d = .command .rdstat ∧
    decode 22 0b1101010000000000#16 d = .command .rdxfer ∧
    decode 22 0b1101100000000000#16 d = .command .rdport ∧
    decode 22 0b1101110000000000#16 d = .command .rdtmr ∧
    decode 22 0b1110000000000000#16 d = .command .rdelap := ⟨rfl, rfl, rfl, rfl, rfl, rfl, rfl, rfl, rfl, rfl⟩

/-- Vectors D-2 to D-9, D-11, D-14 and the order of the checks. -/
theorem test_decode_illegal (d : Word) :
    decode 22 0x0001#16 d = .illegal .reservedBits ∧ decode 22 0x5000#16 d = .illegal .reservedOpcode ∧
    decode 22 0xE400#16 d = .illegal .reservedOpcode ∧ decode 22 0xFC00#16 d = .illegal .reservedOpcode ∧
    decode 22 0x0E00#16 d = .illegal .sideUnused ∧ decode 22 0x0C10#16 d = .illegal .indexUnused ∧
    decode 22 0x1010#16 d = .illegal .indexUnused ∧ decode 22 0x0960#16 d = .illegal .indexRange ∧
    decode 22 0x3160#16 d = .illegal .indexRange ∧ decode 22 0x2160#16 d = .illegal .indexRange ∧
    decode 22 0xFFFF#16 d = .illegal .reservedOpcode ∧ decode 22 0x0E11#16 d = .illegal .reservedBits :=
  ⟨rfl, rfl, rfl, rfl, rfl, rfl, rfl, rfl, rfl, rfl, rfl, rfl⟩

theorem test_decodeTableWord :
    decodeTableWord 16 0x09F0 = some (.ldpat 31 0) ∧ decodeTableWord 16 0x4A00 = some (.setact .even 0) ∧
    decodeTableWord 48 0x0003_8000 = some (.setsplit 3) ∧ decodeTableWord 16 0x5000 = none := by decide

theorem test_encode_words : encode (.ldpat 21 7) = (0x0950#16, 7#32) ∧ encode (.pkapat .even 2) = (0x2220#16, 0#32) := by
  decide

/-! ### The step -/

theorem test_step_runs_first_instruction :
    answerOf (step (State.reset.withFetchWord 16 0xE000)) = good 3 := by decide +kernel

theorem test_step_without_events (s : State) (h : s.cfg.Wf) (hi : s.inputs = []) : step s = .next s := by
  unfold step
  rw [if_pos h, hi]

/-- A step on a decodable command runs it. -/
theorem step_command {s : State} (h : s.cfg.Wf) (cw : CmdWord) (d : Word) {i : Instr} (hd : decode s.cfg.A cw d = .command i) :
    step { s with inputs := [.command cw d] } = exec i { s with inputs := [] } := by
  unfold step
  rw [if_pos h]
  show runCommand cw d { s with inputs := [] } = _
  unfold runCommand
  rw [show ({ s with inputs := [] } : State).cfg = s.cfg from rfl, hd]

/-! ### One-step vectors -/

/-- F-6. -/
theorem test_ldpos : (run (.ldpos (-5)) small).mem.inPos = 0xFFFFFFFB#32 := by decide
/-- F-7 on SMALL: slot 1. -/
theorem test_ldpat : (run (.ldpat 1 0xFFFF) small).mem.inPat = [0x0000#16, 0x3FFF#16] := by decide
/-- F-8. -/
theorem test_add : answerOf (exec .add ref) = good 6 ∧ (run .add ref).w = 2 := by decide +kernel
/-- F-4: a full side. -/
theorem test_add_full : answerOf (exec .add { small with w := 0 }) = bad .full := by decide
/-- F-14 on SMALL: the cursor wraps. -/
theorem test_next_wraps : (run (.next .odd) { small with r := { odd := 3, even := 3 } }).r = { odd := 0, even := 3 } := by decide
/-- F-15: the loop reset and the wrap of the loop counter. -/
theorem test_next_loop :
    answerOf (exec (.next .even) { small with w := 2, mode := .looping, r := { odd := 1, even := 0 }, loopcnt := -1 }) = good 1 ∧
    (run (.next .even) { small with w := 2, mode := .looping, r := { odd := 1, even := 0 }, loopcnt := -1 }).loopcnt = 0 := by
  decide

/-- SMALL with two entries, a different one under each read cursor (F-19). -/
def twoEntries : State :=
  { small with
    w := 3
    r := { odd := 1, even := 2 }
    mem := { small.mem with
      slots := [⟨0, [0, 0]⟩, ⟨100, [0x0001#16, 0x2000#16]⟩, ⟨7, [0x0100#16, 0]⟩, ⟨0, [0, 0]⟩] } }

theorem test_peekpos : answerOf (exec (.peekpos .odd) twoEntries) = good 100 := by decide
theorem test_peekpat : answerOf (exec (.peekpat .odd 1) twoEntries) = good 0x2000 := by decide
theorem test_pkapos : answerOf (exec (.pkapos .odd) twoEntries) = good 7 ∧
    answerOf (exec (.pkapos .even) twoEntries) = bad .empty := by decide
theorem test_pkapat : answerOf (exec (.pkapat .odd 0) twoEntries) = good 0x0100 ∧
    answerOf (exec (.pkapat .even 0) twoEntries) = bad .empty := by decide
theorem test_rdspc : answerOf (exec (.rdspc .odd) twoEntries) = good 1 ∧
    answerOf (exec (.rdspc .even) { small with w := 0 }) = good 3 := by decide
theorem test_rdspcmin : answerOf (exec .rdspcmin twoEntries) = good 0 := by decide
/-- F-2 and F-5. -/
theorem test_wrspc : answerOf (exec .wrspc ref) = good 7 ∧
    answerOf (exec .wrspc { ref with w := 0, mode := .static }) = good 8 := by decide +kernel
/-- F-19. -/
theorem test_merged_both : answerOf (exec (.merged 0) twoEntries) = good 0x0101 := by decide
/-- F-20 and F-21. -/
theorem test_merged_gate : answerOf (exec (.merged 0) { twoEntries with pmode := .evenOnly }) = good 0x0100 ∧
    answerOf (exec (.merged 0) { twoEntries with act := { odd := false, even := false } }) = good 0 := by decide
/-- F-25. -/
theorem test_setmode : answerOf (exec (.setmode 7) small) = good 0 ∧ (run (.setmode 2) small).mode = .looping := by decide
/-- F-26. -/
theorem test_getmode : answerOf (exec .getmode small) = good 0 := by decide
theorem test_getloop : answerOf (exec .getloop { small with loopcnt := 5 }) = good 5 := by decide
/-- F-28. -/
theorem test_clearall : (run .clearall { twoEntries with loopcnt := 5, mode := .static }).mem = small.mem ∧
    (run .clearall { twoEntries with loopcnt := 5, mode := .static }).mode = .static := by decide
/-- F-27 on SMALL. -/
theorem test_resetrd : (run .resetrd twoEntries).r = { odd := 0, even := 0 } ∧ (run .resetrd twoEntries).unread .odd = 2 := by
  decide
/-- F-22 and F-23. -/
theorem test_setact : (run (.setact .even 0) small).act = { odd := true, even := false } ∧
    answerOf (exec (.setact .even 2) small) = good 0 := by decide
/-- F-24. -/
theorem test_setpmode : answerOf (exec (.setpmode 3) small) = good 0 ∧ (run (.setpmode 1) small).pmode = .oddOnly := by decide
/-- E-8. -/
theorem test_setsplit : answerOf (exec (.setsplit 0) small) = good 1 ∧ answerOf (exec (.setsplit 9) small) = good 4 ∧
    answerOf (exec (.setsplit 3) small) = good 3 := by decide
/-- E-9. -/
theorem test_settmode : (run (.settmode 1) small).tmode = .long ∧ answerOf (exec (.settmode 2) small) = good 0 := by decide
/-- E-13 on SMALL: pairs 2 to 7. -/
theorem test_encode : ((run .encode { twoEntries with split := .two }).mem.stage.drop 2).take 6 =
    [0x0101#16, 0x8101#16, 0x0000#16, 0x0000#16, 0x8000#16, 0x0000#16] := by decide +kernel
/-- E-2: the RDATA of ENCODE. -/
theorem test_encode_lengths : answerOf (exec .encode ref) = good 0x006E018C := by decide +kernel
/-- E-4 on SMALL: pairs 0 to 6. -/
theorem test_encin_long :
    (run .encin { small with tmode := .long, mem := { small.mem with inPat := [0x3FFF#16, 0] } }).mem.stage.take 7 =
      [0x4000#16, 0x0000#16, 0x3FFF#16, 0xBFFF#16, 0xBFFF#16, 0x0000#16, 0x4000#16] := by decide +kernel
/-- E-12. -/
theorem test_encin_hazard : answerOf (exec .encin (run .dispatch single)) = bad .hazard := by decide
/-- E-10 and D-15. -/
theorem test_rdstg : answerOf (exec (.rdstg 36) small) = bad .illegal ∧
    answerOf (exec (.rdstg 0x00010000) small) = bad .illegal := by decide
/-- With DBUF = 0 the active region is the staging region. -/
theorem test_rdact : answerOf (exec (.rdact 0) (run .encin single)) = good 0x4000 ∧
    answerOf (exec (.rdact 0) (run .encin small)) = good 0 := by decide +kernel
/-- T-1 and T-2. -/
theorem test_dispatch : (run .dispatch small).stat = 0x00011470#32 ∧
    answerOf (exec .dispatch (run .dispatch small)) = bad .busy := by decide
/-- The boundary of the settle window (90_conflicts.md C7). -/
theorem test_isbusy : answerOf (exec .isbusy { small with elapsed := 2 }) = good 1 ∧
    answerOf (exec .isbusy { small with elapsed := 3 }) = good 0 := by decide
/-- T-13. -/
theorem test_ackdone : (run .ackdone { small with donePend := true, irqEn := true }).irq = false := by decide
/-- T-13 and T-14. -/
theorem test_setirq : (run (.setirq 1) { small with donePend := true }).irq = true ∧
    answerOf (exec (.setirq 2) small) = good 0 := by decide
/-- X1 and X2. -/
theorem test_rdstat : answerOf (exec .rdstat small) = good 0x00010070 ∧ answerOf (exec .rdstat single) = good 0x00000070 := by
  decide
theorem test_rdxfer : answerOf (exec .rdxfer { small with pairIdx := 36 }) = good 36 := by decide
theorem test_rdport : answerOf (exec .rdport { small with port := 0x8005 }) = good 0x8005 := by decide
theorem test_rdtmr : answerOf (exec .rdtmr { small with tmr := 1 }) = good 1 := by decide
/-- T-15. -/
theorem test_rdelap : answerOf (exec .rdelap small) = good 3 := by decide
/-- T-17. -/
theorem test_nop : exec .nop small = .next (small.answer .ok 0) := rfl

/-! ### The tick, reset and the assembler -/

/-- T-3. -/
theorem test_tick_arms : (tick (run .dispatch small)).dstate = .inflight ∧ (tick (run .dispatch small)).tmr = 0 := by decide
/-- T-10: an edge in the arming tick does not set the flag. -/
theorem test_tick_arm_at_edge :
    (tick { small with cfg := { Config.small with align := 0 }, dstate := .arming, tmr := 1 }).trigPend = false := by decide
/-- T-12. -/
theorem test_tick_pending : (ticks 2 small).trigPend = true ∧ (run .dispatch (ticks 2 small)).trigPend = false := by decide

/-- SMALL one tick before the last pair is driven. -/
def lastPair : State := { small with dstate := .inflight, tmr := 1, pairIdx := 35 }

/-- T-6. -/
theorem test_tick_completes : (tick lastPair).dstate = .idle ∧ (tick lastPair).donePend = true ∧ (tick lastPair).elapsed = 0 ∧
    (tick lastPair).pairIdx = 36 := by decide
/-- X3. -/
theorem test_reset : perform .reset lastPair = .next small := rfl

theorem test_assemble :
    assemble "LDPOS" [.number (-5)] = some (.ldpos 0xFFFFFFFB) ∧
    assemble "PEEKPAT" [.word "even", .slot 3] = some (.peekpat .even 3) ∧
    assemble "SETPMODE" [.word "odd"] = some (.setpmode 1) ∧ assemble "NEXT" [.word "odd"] = some (.next .odd) := by decide

theorem test_clrpat : clrpatExpansion 2 = [.ldpat 0 0, .ldpat 1 0] := by decide

/-! ### States that meet the invariant -/

/-- A state with no answer meets the invariant if its ranges can be checked. -/
theorem inv_of {s : State} (h : s.cfg.Wf ∧ s.mem.wf s.cfg ∧ s.w.toNat < s.cfg.C ∧ s.r.odd.toNat < s.cfg.C ∧
    s.r.even.toNat < s.cfg.C ∧ s.tmr.toNat ≤ s.cfg.tmrTop ∧ s.elapsed.toNat ≤ s.cfg.settle + 1 ∧
    s.pairIdx.toNat ≤ s.cfg.regionPairs ∧ (s.dstate = .inflight → s.pairIdx.toNat < s.cfg.regionPairs) ∧
    (s.dstate ≠ .idle → s.cfg.settle < s.elapsed.toNat) ∧ s.response = none) : s.Inv := by
  obtain ⟨h1, h2, h3, h4, h5, h6, h7, h8, h9, h10, h11⟩ := h
  exact ⟨h1, h2, h3, h4, h5, h6, h7, h8, h9, h10, by rw [h11]; nofun⟩

/-- SMALL with given cursors and mode. -/
def cursors (m : Mode) (w a b : Cursor) : State := { small with mode := m, w := w, r := { odd := a, even := b } }

/-- SMALL armed, in flight or idle, with a timer count and a transfer index. -/
def moving (d : DState) (t p : BitVec 16) : State := { small with dstate := d, tmr := t, pairIdx := p }

/-- The same with DBUF = 0. -/
def movingSingle (d : DState) : State := { single with dstate := d }

theorem inv_small : small.Inv := inv_of (by decide)
theorem inv_single : single.Inv := inv_of (by decide)
theorem inv_twoEntries : twoEntries.Inv := inv_of (by decide)
theorem inv_empty : (cursors .looping 1 0 0).Inv := inv_of (by decide)
theorem inv_full : (cursors .clearing 0 0 0).Inv := inv_of (by decide)
theorem inv_oneEach : (cursors .clearing 2 0 0).Inv := inv_of (by decide)
theorem inv_lastLooping : (cursors .looping 2 0 1).Inv := inv_of (by decide)
theorem inv_twoLooping : (cursors .looping 3 0 2).Inv := inv_of (by decide)
theorem inv_otherUnread : (cursors .looping 2 0 0).Inv := inv_of (by decide)
theorem inv_fullStatic : (cursors .static 0 0 0).Inv := inv_of (by decide)
theorem inv_arming : (moving .arming 0 0).Inv := inv_of (by decide)
theorem inv_armingLate : (moving .arming 1 0).Inv := inv_of (by decide)
theorem inv_flight : (moving .inflight 0 0).Inv := inv_of (by decide)
theorem inv_flightEdge : (moving .inflight 1 0).Inv := inv_of (by decide)
theorem inv_flightBeforeLast : (moving .inflight 1 34).Inv := inv_of (by decide)
theorem inv_flightLast : (moving .inflight 1 35).Inv := inv_of (by decide)
theorem inv_idleEdge : (moving .idle 1 0).Inv := inv_of (by decide)
theorem inv_singleArming : (movingSingle .arming).Inv := inv_of (by decide)

theorem unread_others {s : State} {side other : Side} {n : Nat} (h : other ≠ side) (ho : s.unread .odd = n ∨ side = .odd)
    (he : s.unread .even = n ∨ side = .even) : s.unread other = n := by
  cases side <;> cases other <;> simp_all

/-! ### Witnesses: a state and operands that meet the hypotheses of a statement together -/

theorem test_witness_DecodeEncodeRoundTrip : (Instr.ldpat 21 0x3FFF).Wf 22 := by decide
theorem test_witness_AcceptedWordIsItsEncoding : decode 22 0x0950#16 5 = .command (.ldpat 21 5) := rfl

/-- Every cause at the ends of its range, and the answer of an illegal command. -/
theorem test_witness_IllegalExactlyForListedCauses : small.Inv ∧
    IllegalCause small.cfg 0x5000#16 0 ∧ IllegalCause small.cfg 0x7C00#16 0 ∧ IllegalCause small.cfg 0x9800#16 0 ∧
    IllegalCause small.cfg 0xBC00#16 0 ∧ IllegalCause small.cfg 0xE400#16 0 ∧ IllegalCause small.cfg 0xFC00#16 0 ∧
    IllegalCause small.cfg 0x0001#16 0 ∧ IllegalCause small.cfg 0x0E00#16 0 ∧ IllegalCause small.cfg 0x0C10#16 0 ∧
    IllegalCause small.cfg 0x0820#16 0 ∧ IllegalCause small.cfg 0x9000#16 36 ∧
    ¬ IllegalCause small.cfg 0x0810#16 0 ∧ ¬ IllegalCause small.cfg 0x9000#16 35 ∧
    perform (.command 0x5000#16 0) small = .next (small.answer .illegal 0) := by
  refine ⟨inv_small, ?_⟩
  unfold IllegalCause
  exact ⟨by decide, by decide, by decide, by decide, by decide, by decide, by decide, by decide, by decide, by decide,
    by decide, by decide, by decide, rfl⟩

theorem test_witness_SampleWordsDecode : (22 : Nat) ≤ 22 := by decide

theorem test_witness_StepRunsTheDecodedCommand : small.cfg.Wf ∧
    ({ small with inputs := [.command 0x0C00#16 0, .tick] } : State).inputs = .command 0x0C00#16 0 :: [.tick] ∧
    decode small.cfg.A 0x0C00#16 0 = .command .add := ⟨by decide, rfl, rfl⟩

theorem test_witness_StepPerformsTicksAndResets : small.cfg.Wf ∧
    ({ small with inputs := [.tick] } : State).inputs = .tick :: [] ∧
    ({ small with inputs := [.reset] } : State).inputs = .reset :: [] ∧ small.inputs = [] := ⟨by decide, rfl, rfl, rfl⟩

/-- A configuration for each broken check. -/
theorem test_witness_IllFormedConfigurationRefused :
    ¬ { Config.small with C := 1 }.SizesOk ∧ ¬ { Config.small with regionPairs := 35 }.RegionOk ∧
    ¬ { Config.small with align := 2 }.TimerOk ∧ ¬ { Config.small with settle := 2 ^ 32 - 1 }.SettleOk ∧
    ¬ { Config.small with splitTable := [] }.SplitOk ∧ ¬ (withMap ⟨List.range 13, 14, 15⟩).PortMapOk :=
  ⟨by decide, by decide, by decide, by decide, by decide, by decide⟩

theorem test_witness_NoStepTraps : small.cfg.Wf := by decide
theorem test_witness_UnreadCountIsRingDistance : small.Inv ∧ small.unread .odd = 0 ∧
    (cursors .clearing 0 0 0).Inv ∧ (cursors .clearing 0 0 0).unread .odd = 3 := ⟨inv_small, rfl, inv_full, rfl⟩
theorem test_witness_WriteSpaceByMode : small.Inv ∧ small.mode = .clearing ∧
    (cursors .static 0 0 0).Inv ∧ (cursors .static 0 0 0).mode ≠ .clearing := ⟨inv_small, rfl, inv_fullStatic, by decide⟩
theorem test_witness_LoadPatternOperandWord : small.Inv ∧ small.cfg.A ≤ (2 : SlotIdx).toNat ∧
    (1 : SlotIdx).toNat < small.cfg.A := ⟨inv_small, by decide, by decide⟩
theorem test_witness_AddAppendsOperandEntry : (cursors .clearing 0 0 0).Inv ∧ (cursors .clearing 0 0 0).wspace = 0 ∧
    (cursors .static 0 0 0).Inv ∧ (cursors .static 0 0 0).mode ≠ .clearing ∧ small.Inv ∧ small.wspace ≠ 0 :=
  ⟨inv_full, rfl, inv_fullStatic, by decide, inv_small, by decide⟩

/-- Each clause of NEXT, with the three ways not to loop at their boundaries. -/
theorem test_witness_NextAdvancesOneSide :
    (small.Inv ∧ small.unread .odd = 0) ∧
    ((cursors .looping 2 0 1).Inv ∧ (cursors .looping 2 0 1).unread .odd = 1 ∧
      ∀ other, other ≠ Side.odd → (cursors .looping 2 0 1).unread other = 0) ∧
    ((cursors .clearing 2 0 0).Inv ∧ (cursors .clearing 2 0 0).unread .odd = 1 ∧ (cursors .clearing 2 0 0).mode ≠ .looping) ∧
    ((cursors .looping 3 0 2).Inv ∧ (cursors .looping 3 0 2).unread .odd = 2) ∧
    ((cursors .looping 2 0 0).Inv ∧ (cursors .looping 2 0 0).unread .odd = 1 ∧ (cursors .looping 2 0 0).unread .even ≠ 0) :=
  ⟨⟨inv_small, rfl⟩, ⟨inv_lastLooping, rfl, fun _ h => unread_others h (.inr rfl) (.inl rfl)⟩,
    ⟨inv_oneEach, rfl, by decide⟩, ⟨inv_twoLooping, rfl⟩, ⟨inv_otherUnread, rfl, by decide⟩⟩

theorem test_witness_PeekReadsCurrentSlot : (1 : SlotIdx).toNat < 2 ∧ 2 ≤ (2 : SlotIdx).toNat := by decide
theorem test_witness_PeekAheadReadsNextSlotOrEmpty : (1 : SlotIdx).toNat < 2 ∧ 2 ≤ (2 : SlotIdx).toNat ∧
    twoEntries.unread .even = 0 ∧ twoEntries.unread .odd ≠ 0 := by decide
theorem test_witness_CountCommandsAnswerCounts : twoEntries.Inv := inv_twoEntries
theorem test_witness_SideGateSettersApplyOrIgnore : (1 : Word).toNat ≤ 1 ∧ 2 ≤ (2 : Word).toNat ∧ (2 : Word).toNat ≤ 2 ∧
    3 ≤ (3 : Word).toNat := by decide
theorem test_witness_MergedIsGatedUnion : twoEntries.Inv ∧ (1 : SlotIdx).toNat < twoEntries.cfg.A ∧
    twoEntries.cfg.A ≤ (2 : SlotIdx).toNat ∧ twoEntries.contributes .odd = true := ⟨inv_twoEntries, by decide⟩
theorem test_witness_SetModeAppliesOrIgnores : (2 : Word).toNat ≤ 2 ∧ 3 ≤ (3 : Word).toNat := by decide
theorem test_witness_ClearAllZeroesTheFifo : (3 : Nat) < small.cfg.C := by decide
theorem test_witness_ResetReadRewindsCursors : twoEntries.Inv := inv_twoEntries

theorem test_witness_ClearingAddKeepsUnreadEntries : (cursors .clearing 2 0 0).Inv ∧
    (cursors .clearing 2 0 0).mode = .clearing ∧
    (∀ side, (cursors .clearing 2 0 0).unread side ≤ (cursors .clearing 2 0 0).cfg.C - 2) ∧
    exec .add (cursors .clearing 2 0 0) = .next (run .add (cursors .clearing 2 0 0)) ∧
    1 ≤ (cursors .clearing 2 0 0).unread .odd :=
  ⟨inv_oneEach, rfl, fun side => by cases side <;> decide, exec_next _ _, by decide⟩

theorem test_witness_StaticAddOverwritesFullSide : (cursors .static 0 0 0).Inv ∧ (cursors .static 0 0 0).mode ≠ .clearing ∧
    (cursors .static 0 0 0).w = (cursors .static 0 0 0).r.get .odd := ⟨inv_fullStatic, by decide, rfl⟩

theorem test_witness_PairCarriesMaskAndClocks : Config.small.PortMapOk := by decide
theorem test_witness_DefaultPortMapPairs : Config.small.P ≤ 14 ∧ Config.small.pmap = defaultPortMap Config.small.P ∧
    MaskFits Config.small.P 0x3FFF#16 := by decide
theorem test_witness_DefaultSplitTableMasks : 14 ≤ 14 ∧ 4 ∈ [1, 2, 3, 4] ∧ 3 < 4 ∧ Config.small.P = 14 ∧
    Config.small.splitTable = defaultSplitTable 14 := by decide
theorem test_witness_SetTimingAppliesOrIgnores : (1 : Word).toNat ≤ 1 ∧ 2 ≤ (2 : Word).toNat := by decide
/-- The last slot and phase, the last pair of the region after the shortest content, and both timing modes. -/
theorem test_witness_EncodedRegionLayout : Config.small.Wf ∧ 1 < Config.small.A ∧ 3 < 4 ∧
    Config.small.A * (2 + 1 * (3 + 0)) ≤ 35 ∧ 35 < Config.small.regionPairs := ⟨test_wf_small, by decide⟩
theorem test_witness_PhasesPartitionTheWord : Config.small.Wf ∧ MaskFits Config.small.P 0x3FFF#16 ∧
    (0x3FFF#16).getLsbD 13 = true := ⟨test_wf_small, by decide⟩
theorem test_witness_EncodedPairsAreSafe : Config.small.Wf ∧ 0x4000#16 ∈ enc Config.small [0, 0] 4 1 :=
  ⟨test_wf_small, by decide +kernel⟩

theorem test_witness_EncodeStagesMergedPattern : (movingSingle .arming).Inv ∧ (movingSingle .arming).cfg.dbuf = false ∧
    (movingSingle .arming).dstate ≠ .idle ∧ (moving .inflight 0 0).Inv ∧ (moving .inflight 0 0).cfg.dbuf = true ∧
    single.Inv ∧ single.dstate = .idle := ⟨inv_singleArming, rfl, by decide, inv_flight, rfl, inv_single, rfl⟩
theorem test_witness_EncinStagesOperandPattern : (movingSingle .arming).Inv ∧ (movingSingle .arming).cfg.dbuf = false ∧
    (movingSingle .arming).dstate ≠ .idle ∧ (moving .inflight 0 0).Inv ∧ (moving .inflight 0 0).cfg.dbuf = true ∧
    single.Inv ∧ single.dstate = .idle := ⟨inv_singleArming, rfl, by decide, inv_flight, rfl, inv_single, rfl⟩
theorem test_witness_RegionReadsAnswerOnePair : small.Inv ∧ small.cfg.regionPairs ≤ (36 : Word).toNat ∧
    (35 : Word).toNat < small.cfg.regionPairs ∧ small.cfg.dbuf = true ∧ single.Inv ∧
    (35 : Word).toNat < single.cfg.regionPairs ∧ single.cfg.dbuf = false :=
  ⟨inv_small, by decide, by decide, rfl, inv_single, by decide, rfl⟩

theorem test_witness_DispatchCopiesAndArms : (moving .inflight 0 0).busy = true ∧ small.busy = false ∧
    small.cfg.dbuf = true ∧ single.busy = false ∧ single.cfg.dbuf = false := by decide
theorem test_witness_IsBusyAnswersBusy : (moving .arming 0 0).dstate ≠ .idle ∧
    ({ small with elapsed := 2 } : State).elapsed.toNat ≤ small.cfg.settle ∧
    small.dstate = .idle ∧ small.cfg.settle < small.elapsed.toNat := by decide
theorem test_witness_AckDoneAndSetIrqDriveTheLine : (1 : Word).toNat ≤ 1 ∧ 2 ≤ (2 : Word).toNat := by decide
theorem test_witness_StatusRegisterLayout : (18 : Nat) ≤ 18 := by decide

/-- A tick that arms, one that moves a pair, one that completes, one that does none of them. -/
theorem test_witness_TickInOrder : ((moving .arming 0 0).Inv ∧ (moving .arming 0 0).Arms) ∧
    ((moving .inflight 1 34).Inv ∧ (moving .inflight 1 34).Moves ∧ ¬ (moving .inflight 1 34).Completes) ∧
    ((moving .inflight 1 35).Inv ∧ (moving .inflight 1 35).Completes) ∧
    (small.Inv ∧ ¬ small.Arms ∧ ¬ small.Moves) :=
  ⟨⟨inv_arming, by decide⟩, ⟨inv_flightBeforeLast, by decide⟩, ⟨inv_flightLast, by decide⟩, ⟨inv_small, by decide⟩⟩

/-- The arming tick; the ticks before it; an edge while idle. -/
theorem test_witness_TimerAndPendingTrigger :
    ((moving .arming 0 0).Inv ∧ (moving .arming 0 0).dstate = .arming ∧
      ((moving .arming 0 0).tmr.toNat + 1) % small.cfg.period = small.cfg.align) ∧
    ((moving .arming 1 0).Inv ∧ ((moving .arming 1 0).tmr.toNat + 1) % small.cfg.period ≠ small.cfg.align) ∧
    ((moving .idle 1 0).Inv ∧ (moving .idle 1 0).dstate ≠ .arming ∧ (moving .idle 1 0).tmr.toNat = small.cfg.tmrTop) :=
  ⟨⟨inv_arming, rfl, by decide⟩, ⟨inv_armingLate, by decide⟩, ⟨inv_idleEdge, by decide, rfl⟩⟩
theorem test_witness_ArmingTickStartsTransfer :
    ((moving .arming 0 0).Inv ∧ (moving .arming 0 0).dstate = .arming ∧
      ((moving .arming 0 0).tmr.toNat + 1) % small.cfg.period = small.cfg.align) ∧
    ((moving .arming 1 0).Inv ∧ (moving .arming 1 0).dstate = .arming ∧
      ((moving .arming 1 0).tmr.toNat + 1) % small.cfg.period ≠ small.cfg.align) :=
  ⟨⟨inv_arming, rfl, by decide⟩, ⟨inv_armingLate, rfl, by decide⟩⟩
/-- No edge; an edge before the last pair, at the last but one too; the last pair. -/
theorem test_witness_TransferStepAndCompletion :
    ((moving .inflight 0 0).Inv ∧ (moving .inflight 0 0).dstate = .inflight ∧
      (moving .inflight 0 0).tmr.toNat ≠ small.cfg.tmrTop) ∧
    ((moving .inflight 1 34).Inv ∧ (moving .inflight 1 34).tmr.toNat = small.cfg.tmrTop ∧
      (moving .inflight 1 34).pairIdx.toNat + 1 < small.cfg.regionPairs) ∧
    ((moving .inflight 1 35).Inv ∧ (moving .inflight 1 35).tmr.toNat = small.cfg.tmrTop ∧
      (moving .inflight 1 35).pairIdx.toNat + 1 = small.cfg.regionPairs) :=
  ⟨⟨inv_flight, rfl, by decide⟩, ⟨inv_flightBeforeLast, rfl, by decide⟩, ⟨inv_flightLast, rfl, by decide⟩⟩
theorem test_witness_SettleCounterSaturates :
    ((moving .inflight 1 35).Inv ∧ (moving .inflight 1 35).dstate = .inflight ∧
      (moving .inflight 1 35).tmr.toNat = small.cfg.tmrTop ∧
      (moving .inflight 1 35).pairIdx.toNat + 1 = small.cfg.regionPairs) ∧
    ((moving .inflight 1 34).Inv ∧ (moving .inflight 1 34).pairIdx.toNat + 1 ≠ small.cfg.regionPairs) ∧
    (small.Inv ∧ small.dstate = .idle) :=
  ⟨⟨inv_flightLast, rfl, rfl, by decide⟩, ⟨inv_flightBeforeLast, by decide⟩, ⟨inv_small, rfl⟩⟩

/-- A step that performs a tick. -/
theorem step_tick {s : State} (h : s.cfg.Wf) : step { s with inputs := [.tick] } = .next (tick { s with inputs := [] }) := by
  unfold step
  rw [if_pos h]
  rfl

theorem test_witness_StepKeepsInvariant : State.Inv { small with inputs := [.tick] } ∧
    step { small with inputs := [.tick] } = .next (tick { small with inputs := [] }) :=
  ⟨inv_inputs inv_small _, step_tick test_wf_small⟩
theorem test_witness_ResetMeetsInvariant : Config.small.Wf ∧ Config.ref.Wf := ⟨test_wf_small, test_wf_ref⟩

/-- SMALL at the tick that drives the last pair is drive-safe. -/
theorem driveSafe_lastPair : State.DriveSafe { lastPair with inputs := [.tick] } := by
  have zero : ∀ c, SafePair c 0 := fun c h => by simp at h
  refine ⟨fun w hw => ?_, fun w hw => ?_, zero _, rfl, rfl⟩
  · rw [List.eq_of_mem_replicate (show w ∈ List.replicate 36 (0#16) from hw)]; exact zero _
  · rw [List.eq_of_mem_replicate (show w ∈ List.replicate 36 (0#16) from hw)]; exact zero _

theorem test_witness_StepKeepsDriveSafe : Config.small.Wf ∧ State.Inv { lastPair with inputs := [.tick] } ∧
    State.DriveSafe { lastPair with inputs := [.tick] } ∧
    step { lastPair with inputs := [.tick] } = .next (tick { lastPair with inputs := [] }) ∧
    lastPair.donePend = false ∧ (tick { lastPair with inputs := [] }).donePend = true :=
  ⟨test_wf_small, inv_inputs inv_flightLast _, driveSafe_lastPair, step_tick test_wf_small, rfl, by decide⟩

theorem test_witness_ResetValues : (moving .inflight 1 35).cfg.Wf ∧ single.cfg.Wf := ⟨test_wf_small, inv_single.cfgWf⟩
theorem test_witness_ResetAbortsTransfer : (moving .arming 0 0).Inv ∧ (moving .arming 0 0).dstate ≠ .idle ∧
    (moving .inflight 1 35).Inv ∧ (moving .inflight 1 35).dstate ≠ .idle ∧
    perform .tick (moving .inflight 1 35) = .next (tick (moving .inflight 1 35)) ∧
    (tick (moving .inflight 1 35)).dstate = .idle :=
  ⟨inv_arming, by decide, inv_flightLast, by decide, rfl, by decide⟩

/-- Each element is written by a command that may write it. -/
theorem test_witness_OnlyListedCommandsWrite : (∀ i s, exec i s = .next (run i s)) ∧
    (run .clearall twoEntries).mem.slots ≠ twoEntries.mem.slots ∧ (run .add small).w ≠ small.w ∧
    (run .resetrd twoEntries).r.get .odd ≠ twoEntries.r.get .odd ∧ (run (.setmode 1) small).mode ≠ small.mode ∧
    (run (.next .odd) (cursors .looping 2 0 1)).loopcnt ≠ small.loopcnt ∧
    (run (.setact .even 0) small).act.get .even ≠ small.act.get .even ∧ (run (.setpmode 1) small).pmode ≠ small.pmode ∧
    (run (.ldpos 1) small).mem.inPos ≠ small.mem.inPos ∧ (run (.ldpat 0 1) small).mem.inPat ≠ small.mem.inPat ∧
    (run (.setsplit 4) small).split ≠ small.split ∧ (run (.settmode 1) small).tmode ≠ small.tmode ∧
    (run .encode small).mem.stage ≠ small.mem.stage ∧
    (run .encode single).mem.active false ≠ single.mem.active false ∧
    (run .dispatch (run .encode small)).mem.active true ≠ (run .encode small).mem.active true ∧
    (run .dispatch small).dstate ≠ small.dstate ∧
    (run .dispatch { small with trigPend := true }).trigPend ≠ true ∧
    (run .ackdone { small with donePend := true }).donePend ≠ true ∧ (run (.setirq 1) small).irqEn ≠ small.irqEn :=
  ⟨exec_next, by decide, by decide, by decide, by decide, by decide, by decide, by decide, by decide, by decide, by decide,
    by decide, by decide +kernel, by decide +kernel, by decide +kernel, by decide, by decide, by decide, by decide⟩

/-- A command for each result code. -/
theorem test_witness_FailingCommandWritesNothing :
    answerOf (perform (.command 0x0C00#16 0) (cursors .clearing 0 0 0)) = bad .full ∧
    answerOf (perform (.command 0x1000#16 0) small) = bad .empty ∧
    answerOf (perform (.command 0x1C00#16 0) small) = bad .empty ∧
    answerOf (perform (.command 0x2010#16 0) small) = bad .empty ∧
    answerOf (perform (.command 0xC000#16 0) (moving .arming 0 0)) = bad .busy ∧
    answerOf (perform (.command 0x2020#16 0) small) = bad .illegal ∧
    answerOf (perform (.command 0x9400#16 36) small) = bad .illegal ∧
    answerOf (perform (.command 0x8C00#16 0) (movingSingle .arming)) = bad .hazard := by decide

theorem test_witness_ReadsWriteNothingAndRepeat : Instr.rdelap ∈
    [Instr.rdspcmin, .wrspc, .getmode, .getloop, .isbusy, .rdstat, .rdxfer, .rdport, .rdtmr, .rdelap] := by decide

/-- Each edge of the state machine. -/
theorem test_witness_DispatcherStateEdges :
    (small.Inv ∧ perform (.command 0xC000#16 0) small = .next (run .dispatch small) ∧ (run .dispatch small).dstate ≠ .idle) ∧
    ((moving .arming 0 0).Inv ∧ (tick (moving .arming 0 0)).dstate ≠ .arming) ∧
    ((moving .inflight 1 35).Inv ∧ (tick (moving .inflight 1 35)).dstate ≠ .inflight) ∧
    (∀ s, perform .tick s = .next (tick s)) ∧
    perform .reset (moving .inflight 1 35) = .next small ∧ small.dstate ≠ .inflight :=
  ⟨⟨inv_small, exec_next .dispatch small, by decide⟩, ⟨inv_arming, by decide⟩, ⟨inv_flightLast, by decide⟩, fun _ => rfl, rfl, by decide⟩

theorem test_witness_CommandsLeaveTransferAlone : (moving .inflight 1 35).Inv ∧ (moving .inflight 1 35).dstate ≠ .idle ∧
    perform (.command 0x8800#16 0) (moving .inflight 1 35) = .next (run .encode (moving .inflight 1 35)) :=
  ⟨inv_flightLast, by decide, exec_next .encode (moving .inflight 1 35)⟩
theorem test_witness_ArmingLatency : (moving .arming 1 0).Inv ∧ (moving .arming 1 0).dstate = .arming ∧
    1 < armDelay small.cfg (moving .arming 1 0).tmr.toNat := ⟨inv_armingLate, rfl, by decide⟩
theorem test_witness_TransferSchedule : (moving .inflight 0 0).Inv ∧ (moving .inflight 0 0).dstate = .inflight ∧
    (moving .inflight 0 0).tmr = 0 ∧ (moving .inflight 0 0).pairIdx = 0 ∧ 35 < small.cfg.regionPairs ∧
    71 < small.cfg.regionPairs * small.cfg.period := ⟨inv_flight, rfl, rfl, rfl, by decide, by decide⟩
theorem test_witness_AcceptedDispatchCompletes : small.Inv ∧ small.busy = false ∧
    exec .dispatch small = .next (run .dispatch small) := ⟨inv_small, rfl, exec_next _ _⟩

end Sys2Proof.Tests
end

/-! PROOFS. The FIFO commands (40_fifo.md): the laws of the counts and of the command words they need, then the statements. -/

namespace Sys2Proof.Machine

/-! ### Command words without an IDX field -/

/-- A word with IDX = 0 decodes to a command that uses no IDX, in a block of every size (30_encoding.md R115). -/
theorem decode_plain_word {A : Nat} {op : BitVec 6} {side : Side} {wd : Word} {i : Instr} {cw : CmdWord}
    (h : cw = (op.setWidth 16 <<< 10) ||| sideBits side) (hc : commandOf op side 0 wd = some i)
    (hs : i.side = none → side = .odd) (hi : i.slotIdx = none) : decode A cw wd = .command i := by
  obtain ⟨hop, hside, hidx, hrsv⟩ := fields_of_word op side 0 (cw := cw) (h.trans (by simp [idxBits]))
  rw [decode_command_iff, hop, hside, hidx]
  exact ⟨hc, hrsv, hs, fun _ => rfl, fun hne => absurd hi hne⟩

/-- A word with S = 0 and IDX = 0 decodes to a command that uses no IDX. -/
theorem decode_bare_word {A : Nat} {op : BitVec 6} {wd : Word} {i : Instr} {cw : CmdWord}
    (h : cw = op.setWidth 16 <<< 10) (hc : commandOf op .odd 0 wd = some i) (hi : i.slotIdx = none) :
    decode A cw wd = .command i :=
  decode_plain_word (side := .odd) (by simp [h, sideBits]) hc (fun _ => rfl) hi

/-! ### The unread count (40_fifo.md R141) -/

/-- Counting the unread entries on from the next slot ends at W. -/
theorem unread_add_mod {s : State} (h : s.Inv) (side : Side) :
    ((s.r.get side).toNat + 1 + s.unread side) % s.cfg.C = s.w.toNat := by
  have hw := h.wLt
  have hr := h.curLt side
  rw [unread_eq h]
  split
  · rw [Nat.mod_eq_of_lt (by omega)]; omega
  · rw [show (s.r.get side).toNat + 1 + (s.w.toNat + s.cfg.C - (s.r.get side).toNat - 1) = s.w.toNat + s.cfg.C by omega,
      Nat.add_mod_right, Nat.mod_eq_of_lt hw]

theorem unread_eq_zero_iff {s : State} (h : s.Inv) (side : Side) :
    s.unread side = 0 ↔ s.w.toNat = ((s.r.get side).toNat + 1) % s.cfg.C := by
  have hw := h.wLt
  have hr := h.curLt side
  rw [unread_eq h, succ_mod_eq hr]
  split <;> split <;> omega

theorem unread_eq_full_iff {s : State} (h : s.Inv) (side : Side) :
    s.unread side = s.cfg.C - 1 ↔ s.w = s.r.get side := by
  have hw := h.wLt
  have hr := h.curLt side
  rw [unread_eq h, ← BitVec.toNat_inj]
  split <;> omega

/-! ### The write space (40_fifo.md R142) -/

theorem wspace_of_clearing {s : State} (hm : s.mode = .clearing) :
    s.wspace = s.cfg.C - 1 - max (s.unread .odd) (s.unread .even) := by
  simp [State.wspace, hm]

theorem wspace_of_not_clearing {s : State} (hm : s.mode ≠ .clearing) : s.wspace = s.cfg.C - s.w.toNat := by
  cases hmode : s.mode with
  | clearing => exact absurd hmode hm
  | static => simp [State.wspace, hmode]
  | looping => simp [State.wspace, hmode]

/-- In CLEARING mode there is no write space exactly when a side is full. -/
theorem wspace_eq_zero_iff {s : State} (h : s.Inv) (hm : s.mode = .clearing) :
    s.wspace = 0 ↔ s.w = s.r.odd ∨ s.w = s.r.even := by
  have hodd := unread_lt h .odd
  have heven := unread_lt h .even
  rw [wspace_of_clearing hm, ← Sides.get_odd, ← Sides.get_even, ← unread_eq_full_iff h, ← unread_eq_full_iff h]
  omega

theorem wspace_pos_of_not_clearing {s : State} (h : s.Inv) (hm : s.mode ≠ .clearing) : 1 ≤ s.wspace := by
  have := h.wLt
  rw [wspace_of_not_clearing hm]
  omega

theorem wspace_le (s : State) : s.wspace ≤ s.cfg.C := by
  by_cases hm : s.mode = .clearing
  · rw [wspace_of_clearing hm]; omega
  · rw [wspace_of_not_clearing hm]; omega

/-- A count below 2^32 is the number RDATA holds. -/
theorem countWord_toNat {n : Nat} (h : n < 2 ^ 32) : (countWord n).toNat = n := Nat.mod_eq_of_lt h

/-! ### The cursor moves of NEXT and RESETRD -/

theorem advanceRead_inv {s : State} (h : s.Inv) (side : Side) : (s.advanceRead side).Inv := by
  have hlt := advance_lt (s.r.get side) h.cPos h.cLe
  cases side with
  | odd => exact { h with oddLt := hlt }
  | even => exact { h with evenLt := hlt }

theorem rewind_inv {s : State} (h : s.Inv) : s.rewind.Inv := { h with oddLt := h.cPos, evenLt := h.cPos }

theorem unread_advanceRead_same {s : State} (h : s.Inv) {side : Side} (hne : s.unread side ≠ 0) :
    (s.advanceRead side).unread side = s.unread side - 1 := by
  have hw := h.wLt
  have hr := h.curLt side
  have hadv : ((s.advanceRead side).r.get side).toNat = ((s.r.get side).toNat + 1) % s.cfg.C := by
    simpa using advance_toNat (s.r.get side) h.cPos h.cLe
  rw [unread_eq h] at hne
  rw [unread_eq (advanceRead_inv h side), unread_eq h, hadv, succ_mod_eq hr]
  simp only [State.advanceRead_w, State.advanceRead_cfg]
  split at hne <;> split <;> split <;> omega

theorem unread_advanceRead_other (s : State) {side other : Side} (ho : other ≠ side) :
    (s.advanceRead side).unread other = s.unread other := by
  simp [State.unread, Sides.get_set_other _ _ ho]

theorem forall_side_iff {p : Side → Prop} : (∀ side, p side) ↔ p .odd ∧ p .even := by
  constructor
  · exact fun h => ⟨h .odd, h .even⟩
  · rintro ⟨hodd, heven⟩ side
    cases side with
    | odd => exact hodd
    | even => exact heven

/-- NEXT leaves both sides empty exactly when it takes the last entry of its side and the other side has none. -/
theorem advanceRead_empty_iff {s : State} (h : s.Inv) {side : Side} (hne : s.unread side ≠ 0) :
    (s.advanceRead side).unread .odd = 0 ∧ (s.advanceRead side).unread .even = 0 ↔
      s.unread side = 1 ∧ ∀ other, other ≠ side → s.unread other = 0 := by
  have hsame := unread_advanceRead_same h hne
  rw [← forall_side_iff (p := fun x => (s.advanceRead side).unread x = 0)]
  constructor
  · intro hempty
    have hzero := hempty side
    exact ⟨by omega, fun other ho => unread_advanceRead_other s ho ▸ hempty other⟩
  · rintro ⟨hone, hother⟩ x
    by_cases hx : x = side
    · subst hx; omega
    · rw [unread_advanceRead_other s hx, hother x hx]

/-- After a rewind every entry but the one in slot 0 is unread (40_fifo.md R148, R164). -/
theorem unread_rewind {s : State} (h : s.Inv) (side : Side) : s.rewind.unread side = (s.w.toNat + s.cfg.C - 1) % s.cfg.C := by
  have hw := h.wLt
  have hzero : (s.rewind.r.get side).toNat = 0 := by cases side <;> rfl
  rw [unread_eq (rewind_inv h), hzero, State.rewind_w, State.rewind_cfg]
  by_cases hpos : 0 < s.w.toNat
  · rw [if_pos hpos, show s.w.toNat + s.cfg.C - 1 = s.w.toNat - 1 + s.cfg.C by omega, Nat.add_mod_right,
      Nat.mod_eq_of_lt (by omega), Nat.sub_zero]
  · rw [if_neg hpos, Nat.mod_eq_of_lt (by omega), Nat.sub_zero]

/-- The NEXT that leaves both sides empty in LOOPING mode rewinds and counts the loop (40_fifo.md R148). -/
theorem execNext_loops {s : State} (h : s.Inv) {side : Side} (hone : s.unread side = 1) (hm : s.mode = .looping)
    (hother : ∀ other, other ≠ side → s.unread other = 0) :
    execNext side s = .next (State.answer { s.rewind with loopcnt := s.loopcnt + 1 } .ok
      (countWord (s.rewind.unread side))) := by
  have hne : s.unread side ≠ 0 := by omega
  obtain ⟨hz, -⟩ | ⟨-, hnext⟩ := execNext_cases side s
  · exact absurd hz hne
  · obtain ⟨-, hno⟩ | ⟨hreset, -⟩ := loopReset_cases (s.advanceRead side)
    · exact absurd ⟨hm, (advanceRead_empty_iff h hne).mpr ⟨hone, hother⟩⟩ hno
    · rw [hnext, hreset]
      rfl

/-- Every other NEXT on a side with unread entries only advances that side. -/
theorem execNext_advances {s : State} (h : s.Inv) {side : Side} (hne : s.unread side ≠ 0)
    (hno : ¬ (s.unread side = 1 ∧ s.mode = .looping ∧ ∀ other, other ≠ side → s.unread other = 0)) :
    execNext side s = .next ((s.advanceRead side).answer .ok (countWord (s.unread side - 1))) := by
  obtain ⟨hz, -⟩ | ⟨-, hnext⟩ := execNext_cases side s
  · exact absurd hz hne
  · obtain ⟨hsame, -⟩ | ⟨-, hm, hempty⟩ := loopReset_cases (s.advanceRead side)
    · rw [hnext, hsame, unread_advanceRead_same h hne]
    · obtain ⟨hone, hother⟩ := (advanceRead_empty_iff h hne).mp hempty
      exact absurd ⟨hone, hm, hother⟩ hno

/-! ### The side gate and the merged word (40_fifo.md R157, R159) -/

theorem permits_odd_iff (m : PrintMode) : m.permits .odd = true ↔ m ≠ .evenOnly := by
  cases m <;> decide

theorem permits_even_iff (m : PrintMode) : m.permits .even = true ↔ m ≠ .oddOnly := by
  cases m <;> decide

theorem contributes_odd_iff (s : State) : s.contributes .odd = true ↔ s.act.odd = true ∧ s.pmode ≠ .evenOnly := by
  rw [State.contributes, Bool.and_eq_true, permits_odd_iff, Sides.get_odd]

theorem contributes_even_iff (s : State) : s.contributes .even = true ↔ s.act.even = true ∧ s.pmode ≠ .oddOnly := by
  rw [State.contributes, Bool.and_eq_true, permits_even_iff, Sides.get_even]

theorem sideWord_getLsbD (s : State) (side : Side) (a p : Nat) :
    (s.sideWord side a).getLsbD p = true ↔
      s.contributes side = true ∧ (s.mem.slotPat (s.curSlot side) a).getLsbD p = true := by
  unfold State.sideWord
  split
  · next hc => simp [hc]
  · next hc => simp [hc]

theorem mergedWord_getLsbD (s : State) (a p : Nat) :
    (s.mergedWord a).getLsbD p = true ↔
      ∃ side, s.contributes side = true ∧ (s.mem.slotPat (s.curSlot side) a).getLsbD p = true := by
  rw [State.mergedWord, BitVec.getLsbD_or, Bool.or_eq_true, sideWord_getLsbD, sideWord_getLsbD]
  constructor
  · rintro (h | h)
    · exact ⟨.odd, h⟩
    · exact ⟨.even, h⟩
  · rintro ⟨side, h⟩
    cases side with
    | odd => exact .inl h
    | even => exact .inr h

theorem sideWord_fits {s : State} (h : s.Inv) (side : Side) (a : Nat) : MaskFits s.cfg.P (s.sideWord side a) := by
  unfold State.sideWord
  split
  · exact slotPat_fits h.memWf _ _
  · exact zero_fits _

theorem mergedWord_fits {s : State} (h : s.Inv) (a : Nat) : MaskFits s.cfg.P (s.mergedWord a) :=
  or_fits (sideWord_fits h .odd a) (sideWord_fits h .even a)

/-- A mask in RDATA keeps its value. -/
theorem setWidth_word_toNat (m : Mask) : (m.setWidth 32).toNat = m.toNat :=
  BitVec.toNat_setWidth_of_le (by decide)

/-- A mask in RDATA keeps its bits, with zeros above them. -/
theorem setWidth_word_getLsbD (m : Mask) (p : Nat) : (m.setWidth 32).getLsbD p = m.getLsbD p := by
  rw [BitVec.getLsbD, BitVec.getLsbD, setWidth_word_toNat]

/-! ### The counts, settled -/

/-- Settles O9: the unread count without a remainder, compared at its ends. -/
theorem unreadCountIsRingDistance : Obligations.UnreadCountIsRingDistance :=
  fun _ side h => ⟨unread_lt h side, unread_add_mod h side, unread_eq_zero_iff h side, unread_eq_full_iff h side⟩

/-- Settles O10: by the mode; neither subtraction is truncated under the invariant. -/
theorem writeSpaceByMode : Obligations.WriteSpaceByMode := by
  intro s h
  refine ⟨fun hm => ⟨?_, wspace_eq_zero_iff h hm⟩, fun hm => ⟨?_, wspace_pos_of_not_clearing h hm⟩⟩
  · have hodd := unread_lt h .odd
    have heven := unread_lt h .even
    rw [wspace_of_clearing hm]
    omega
  · have hw := h.wLt
    rw [wspace_of_not_clearing hm]
    omega

/-- Settles O17: every count is at most C, so RDATA holds it whole. -/
theorem countCommandsAnswerCounts : Obligations.CountCommandsAnswerCounts := by
  intro s h
  have hC := h.cLe
  have hunread : ∀ side, s.unread side < 2 ^ 32 := fun side => by have := unread_lt h side; omega
  have hwspace : s.wspace < 2 ^ 32 := by have := wspace_le s; omega
  refine ⟨fun A wd => ⟨?_, ?_, ?_, ?_⟩, fun side => ⟨_, rfl, countWord_toNat (hunread side)⟩,
    ⟨_, rfl, countWord_toNat (lt_of_le_of_lt (min_le_left _ _) (hunread .odd))⟩, ⟨_, rfl, countWord_toNat hwspace⟩⟩
  · exact decode_bare_word (op := 0x09) rfl rfl rfl
  · exact decode_plain_word (op := 0x09) (side := .even) rfl rfl nofun rfl
  · exact decode_bare_word (op := 0x0A) rfl rfl rfl
  · exact decode_bare_word (op := 0x0B) rfl rfl rfl

/-! ### The operand and the ring, settled -/

/-- Settles O11: the arm of LDPOS writes IN_POS alone. -/
theorem loadPositionOperand : Obligations.LoadPositionOperand :=
  fun _ _ => ⟨fun _ => decode_bare_word (op := 0x01) rfl rfl rfl, rfl⟩

/-- Settles O12: the laws of a write to IN_PAT, with the operand's low P bits. -/
theorem loadPatternOperandWord : Obligations.LoadPatternOperandWord := by
  intro s a d h
  obtain ⟨hdec, hill⟩ := decode_indexed_word (A := s.cfg.A) (op := 0x02) (side := .odd) (a := a) (wd := d)
    (i := .ldpat a d) (cw := 0x0800#16 ||| idxBits a) (by simp [sideBits]) rfl (fun _ => rfl) nofun
  refine ⟨hill, fun ha => ⟨hdec ha, (s.mem.writeInPat a.toNat (maskOperand s.cfg.P d)).inPat, rfl, ?_, ?_, ?_⟩⟩
  · have hlen : a.toNat < s.mem.inPat.length := by
      obtain ⟨-, -, ⟨hlen, -⟩, -⟩ := h.memWf
      exact hlen ▸ ha
    have hread := inPatAt_writeInPat_same (maskOperand s.cfg.P d) hlen
    exact (congrArg BitVec.toNat hread).trans (maskOperand_toNat h.pLe d)
  · exact fun b hb => inPatAt_writeInPat_other s.mem _ hb
  · obtain ⟨-, -, hpat, -⟩ := writeInPat_wf a.toNat (maskOperand_fits h.pLe d) h.memWf
    exact hpat

/-- Settles O13: ADD is FULL or pushes the operand entry; the laws of a slot write give the ring. -/
theorem addAppendsOperandEntry : Obligations.AddAppendsOperandEntry := by
  intro s h
  refine ⟨fun A wd => decode_bare_word (op := 0x03) rfl rfl rfl, ?_, ?_, ?_⟩
  · intro hz
    obtain ⟨-, hfull⟩ | ⟨hne, -⟩ := execAdd_cases s
    · exact hfull
    · exact absurd hz hne
  · intro hm
    exact Nat.one_le_iff_ne_zero.mp (wspace_pos_of_not_clearing h hm)
  · intro hne
    obtain ⟨hz, -⟩ | ⟨-, hok⟩ := execAdd_cases s
    · exact absurd hz hne
    obtain ⟨hslots, -⟩ := h.memWf
    refine ⟨s.mem.slots.set s.w.toNat s.mem.operandEntry, advance s.cfg.C s.w, s.pushEntry, rfl, hok, ?_, ?_, ?_, ?_⟩
    · exact slotAt_writeSlot_same s.mem.operandEntry (hslots ▸ h.wLt)
    · exact fun i hi => slotAt_writeSlot_other s.mem s.mem.operandEntry hi
    · rw [List.length_set, hslots]
    · exact advance_toNat s.w h.cPos h.cLe

/-- Settles O14: NEXT is EMPTY, loops (`execNext_loops`) or advances its side alone (`execNext_advances`). -/
theorem nextAdvancesOneSide : Obligations.NextAdvancesOneSide := by
  intro s side h
  refine ⟨fun A wd => decode_plain_word (op := 0x04) (side := side) rfl rfl nofun rfl, ?_, ?_, ?_⟩
  · intro hz
    obtain ⟨-, hempty⟩ | ⟨hne, -⟩ := execNext_cases side s
    · exact hempty
    · exact absurd hz hne
  · intro hone hm hother
    have hloop : exec (.next side) s = _ := execNext_loops h hone hm hother
    have hcount : s.loopcnt + 1 = BitVec.ofNat 32 (s.loopcnt.toNat + 1) := by
      simp [BitVec.ofNat_add]
    rw [hloop, unread_rewind h, hcount]
    rfl
  · intro hne hno
    refine ⟨(s.advanceRead side).r, execNext_advances h hne hno, ?_, fun other ho => ?_⟩
    · rw [State.advanceRead_r, Sides.get_set_same, advance_toNat _ h.cPos h.cLe]
    · exact Sides.get_set_other _ _ ho

/-- Settles O22: every slot of the cleared ring is the zero slot. -/
theorem clearAllZeroesTheFifo : Obligations.ClearAllZeroesTheFifo := by
  intro s
  refine ⟨fun A wd => decode_bare_word (op := 0x10) rfl rfl rfl,
    List.replicate s.cfg.C (emptySlot s.cfg.A), rfl, List.length_replicate, fun i hi => ?_⟩
  exact ⟨emptySlot s.cfg.A, List.getElem?_replicate_of_lt hi, rfl, List.length_replicate,
    fun m hm => List.eq_of_mem_replicate hm⟩

/-- Settles O23: RESETRD is the rewind, after which `unread_rewind` gives both counts. -/
theorem resetReadRewindsCursors : Obligations.ResetReadRewindsCursors :=
  fun s h => ⟨fun _ _ => decode_bare_word (op := 0x11) rfl rfl rfl,
    s.rewind, rfl, rfl, unread_rewind h⟩

/-! ### The reads, settled -/

/-- Settles O15: neither peek looks at the unread count. -/
theorem peekReadsCurrentSlot : Obligations.PeekReadsCurrentSlot := by
  intro s side a
  have hdec : ∀ A wd, _ := fun A wd => decode_indexed_word (A := A) (op := 0x06) (side := side) (a := a) (wd := wd)
    (i := .peekpat side a) (cw := 0x1800#16 ||| sideBits side ||| idxBits a) rfl rfl nofun nofun
  exact ⟨fun A wd => decode_plain_word (op := 0x05) (side := side) rfl rfl nofun rfl, rfl,
    fun A wd => (hdec A wd).1, fun A wd => (hdec A wd).2, rfl⟩

/-- Settles O16: by whether the side is empty; decoding asks only the index. -/
theorem peekAheadReadsNextSlotOrEmpty : Obligations.PeekAheadReadsNextSlotOrEmpty := by
  intro s side a
  have hdec : ∀ A wd, _ := fun A wd => decode_indexed_word (A := A) (op := 0x08) (side := side) (a := a) (wd := wd)
    (i := .pkapat side a) (cw := 0x2000#16 ||| sideBits side ||| idxBits a) rfl rfl nofun nofun
  refine ⟨fun A wd => decode_plain_word (op := 0x07) (side := side) rfl rfl nofun rfl,
    fun A wd => (hdec A wd).1, fun A wd => (hdec A wd).2, ?_, ?_⟩
  · intro hz
    obtain ⟨-, hpos⟩ | ⟨hne, -⟩ := execPkapos_cases side s
    · obtain ⟨-, hpat⟩ | ⟨hne, -⟩ := execPkapat_cases side a s
      · exact ⟨hpos, hpat⟩
      · exact absurd hz hne
    · exact absurd hz hne
  · intro hne
    obtain ⟨hz, -⟩ | ⟨-, hpos⟩ := execPkapos_cases side s
    · exact absurd hz hne
    · obtain ⟨hz, -⟩ | ⟨-, hpat⟩ := execPkapat_cases side a s
      · exact absurd hz hne
      · exact ⟨hpos, hpat⟩

/-- Settles O19: the bits of the merged word side by side, which zero-extension keeps. -/
theorem mergedIsGatedUnion : Obligations.MergedIsGatedUnion := by
  intro s a h
  have hdec : ∀ wd, _ := fun wd => decode_indexed_word (A := s.cfg.A) (op := 0x0C) (side := .odd) (a := a) (wd := wd)
    (i := .merged a) (cw := 0x3000#16 ||| idxBits a) (by simp [sideBits]) rfl (fun _ => rfl) nofun
  refine ⟨fun wd => (hdec wd).1, fun wd => (hdec wd).2, contributes_odd_iff s, contributes_even_iff s,
    (s.mergedWord a.toNat).setWidth 32, rfl, ?_, fun p => ?_⟩
  · rw [setWidth_word_toNat]
    exact mergedWord_fits h a.toNat
  · rw [setWidth_word_getLsbD]
    exact mergedWord_getLsbD s a.toNat p

/-- Settles O21: the two arms read and write nothing. -/
theorem modeAndLoopCountAreRead : Obligations.ModeAndLoopCountAreRead :=
  fun _ => ⟨fun _ _ => ⟨decode_bare_word (op := 0x0E) rfl rfl rfl,
    decode_bare_word (op := 0x0F) rfl rfl rfl⟩, rfl, rfl⟩

/-! ### The setters, settled -/

/-- The bit SETACT applies is bit 0 of the data word. -/
theorem bitOperand_getLsbD {v : Word} {b : Bool} (h : bitOperand v = some b) : b = v.getLsbD 0 := by
  have hb := bitOperand_some h
  cases b <;> simp [BitVec.getLsbD, ← hb]

/-- Settles O18: by whether the operand is a legal value. -/
theorem sideGateSettersApplyOrIgnore : Obligations.SideGateSettersApplyOrIgnore := by
  intro s side v
  refine ⟨fun A => decode_plain_word (op := 0x12) (side := side) rfl rfl nofun rfl, fun hv => ?_, fun hv => ?_,
    fun A => decode_bare_word (op := 0x13) rfl rfl rfl, fun hv => ?_, fun hv => ?_⟩
  · obtain ⟨b, hb, hset⟩ | ⟨hnone, -⟩ := execSetact_cases side v s
    · exact ⟨s.act.set side b, hset, (Sides.get_set_same _ _ _).trans (bitOperand_getLsbD hb),
        fun other ho => Sides.get_set_other _ _ ho⟩
    · have := bitOperand_none.mp hnone
      omega
  · obtain ⟨b, hb, -⟩ | ⟨-, hignored⟩ := execSetact_cases side v s
    · simp [bitOperand_none.mpr hv] at hb
    · exact hignored
  · obtain ⟨m, hm, hset⟩ | ⟨hnone, -⟩ := execSetpmode_cases v s
    · exact ⟨m, printModeOperand_some hm, hset⟩
    · have := printModeOperand_none.mp hnone
      omega
  · obtain ⟨m, hm, -⟩ | ⟨-, hignored⟩ := execSetpmode_cases v s
    · simp [printModeOperand_none.mpr hv] at hm
    · exact hignored

/-- Settles O20: by whether the operand is a legal mode. -/
theorem setModeAppliesOrIgnores : Obligations.SetModeAppliesOrIgnores := by
  intro s v
  refine ⟨fun A => decode_bare_word (op := 0x0D) rfl rfl rfl, fun hv => ?_, fun hv => ?_⟩
  · obtain ⟨m, hm, hset⟩ | ⟨hnone, -⟩ := execSetmode_cases v s
    · exact ⟨m, modeOperand_some hm, hset⟩
    · have := modeOperand_none.mp hnone
      omega
  · obtain ⟨m, hm, -⟩ | ⟨-, hignored⟩ := execSetmode_cases v s
    · simp [modeOperand_none.mpr hv] at hm
    · exact hignored

end Sys2Proof.Machine

/-! PROOFS. The burst encoder (41_encoder.md): the bits of a pair, the default tables, the layout of the region and the
encoder commands, then the statements. -/

namespace Sys2Proof.Machine

/-! ### The bits of a pair (41_encoder.md R201, R202) -/

/-- An element inside a list is what the read with a default answers. -/
theorem getElem?_eq_some_getD {α : Type} {l : List α} {i : Nat} (d : α) (h : i < l.length) : l[i]? = some (l.getD i d) := by
  rw [List.getD_eq_getElem?_getD, List.getElem?_eq_getElem h, Option.getD_some]

/-- The entry of primitive line p in a legal port map, as a bit position of the pair. -/
theorem prim_eq_some_iff {c : Config} (h : c.PortMapOk) {p i : Nat} (hp : p < c.P) :
    c.pmap.prim[p]? = some i ↔ i < 16 ∧ i = c.pmap.prim.getD p 0 := by
  have hmem := prim_mem h hp
  rw [prim_getElem? h hp, Option.some_inj, eq_comm]
  obtain ⟨-, -, hlt⟩ := h
  exact (and_iff_right_of_imp fun hi => hi ▸ hlt _ (List.mem_append_left _ hmem)).symm

/-- Under the default port map the primitive bits of a pair are the mask. -/
theorem primBits_default {c : Config} {m : Mask} (hmap : c.pmap = defaultPortMap c.P)
    (hm : MaskFits c.P m) : primBits c m = m := by
  have hprim : ∀ p, p < c.P → c.pmap.prim.getD p 0 = p := fun p hp => by
    simp [hmap, defaultPortMap, List.getD_eq_getElem?_getD, hp]
  apply BitVec.eq_of_getLsbD_eq
  intro i hi
  rw [Bool.eq_iff_iff, primBits_getLsbD]
  constructor
  · rintro ⟨p, hp, hbit, -, heq⟩
    rwa [heq, hprim p hp]
  · intro hbit
    have hlt : i < c.P := by
      by_contra hge
      rw [getLsbD_of_fits hm (Nat.le_of_not_lt hge)] at hbit
      cases hbit
    exact ⟨i, hlt, hbit, hi, (hprim i hlt).symm⟩

/-! ### The default split table (41_encoder.md R203) -/

/-- Setting the bits of the lines that meet a condition. -/
theorem foldl_lines_getLsbD (q : Nat → Prop) [DecidablePred q] (l : List Nat) (acc : Mask) (i : Nat) :
    (l.foldl (fun m p => if q p then m ||| (1#16 <<< p) else m) acc).getLsbD i = true ↔
      acc.getLsbD i = true ∨ (i < 16 ∧ i ∈ l ∧ q i) := by
  induction l generalizing acc with
  | nil => simp
  | cons p l ih =>
    rw [List.foldl_cons, ih]
    by_cases hq : q p
    · rw [if_pos hq, BitVec.getLsbD_or, Bool.or_eq_true, getLsbD_one_shiftLeft]
      grind
    · rw [if_neg hq]
      grind

/-- The lines of a default phase mask. -/
theorem defaultSplitMask_getLsbD {P : Nat} (hP : P ≤ 14) (k j p : Nat) :
    (defaultSplitMask P k j).getLsbD p = true ↔ p < P ∧ p % k = j := by
  unfold defaultSplitMask
  rw [foldl_lines_getLsbD (fun p => p % k = j), List.mem_range]
  constructor
  · rintro (hzero | ⟨-, hline⟩)
    · simp at hzero
    · exact hline
  · exact fun hline => .inr ⟨by omega, hline⟩

theorem defaultSplitTable_row (P : Nat) {k : Nat} (hk : k ∈ [1, 2, 3, 4]) :
    (defaultSplitTable P).getD (k - 1) [] = (List.range k).map (defaultSplitMask P k) := by
  fin_cases hk <;> rfl

/-- Phase j of split k in the default table. -/
theorem defaultSplitTable_entry (P : Nat) {k j : Nat} (hk : k ∈ [1, 2, 3, 4]) (hj : j < k) :
    ((defaultSplitTable P).getD (k - 1) []).getD j 0 = defaultSplitMask P k j := by
  rw [defaultSplitTable_row P hk]
  simp [List.getD_eq_getElem?_getD, hj]

/-- Check 5 of R6 reads the number of lines and the split table alone. -/
theorem splitOk_of_same_table {c d : Config} (hP : c.P = d.P) (htable : c.splitTable = d.splitTable) (h : d.SplitOk) :
    c.SplitOk := by
  simpa only [Config.SplitOk, Config.SplitRowOk, Config.splitRow, hP, htable] using h

theorem small_splitOk : Config.small.SplitOk := by decide

/-! ### Where a pair stands in the region (41_encoder.md R206) -/

/-- Pair o of phase j of address slot a. -/
theorem enc_phase {c : Config} {pat : List Mask} {k t a j o : Nat} (ht : t ≤ 1) (ha : a < c.A) (hj : j < k)
    (ho : o < 3 + t) : (enc c pat k t)[a * (2 + k * (3 + t)) + 2 + j * (3 + t) + o]? =
      (phasePairs c (pat.getD a 0 &&& c.splitMask k j) t)[o]? := by
  have hfits : (j + 1) * (3 + t) ≤ k * (3 + t) := Nat.mul_le_mul_right _ hj
  rw [Nat.succ_mul] at hfits
  rw [← slot_phase ht hj ho, ← enc_at ht ha (by omega)]
  congr 1
  omega

/-- Past the content the region is backfilled with zero pairs. -/
theorem enc_backfill {c : Config} {pat : List Mask} {k t i : Nat} (ht : t ≤ 1) (hi : contentLength c k t ≤ i)
    (hlt : i < c.regionPairs) : (enc c pat k t)[i]? = some 0 := by
  have hlen := contentPairs_length c pat k ht
  unfold enc backfill
  rw [List.getElem?_append_right (by omega), List.getElem?_replicate_of_lt (by omega)]

/-- The last pair of a phase is the idle pair, in both timing modes. -/
theorem phasePairs_last (c : Config) (m : Mask) {t : Nat} (ht : t ≤ 1) :
    (phasePairs c m t)[2 + t]? = some (pw c 0 false false) := by
  interval_cases t <;> rfl

/-! ### The encode commands (41_encoder.md R209, R210) -/

theorem encodeHazard_iff (s : State) : s.encodeHazard = true ↔ s.cfg.dbuf = false ∧ s.dstate ≠ .idle := by
  simp [State.encodeHazard]

theorem encodeInto_of_hazard {s : State} (pat : List Mask) (hbuf : s.cfg.dbuf = false) (hd : s.dstate ≠ .idle) :
    encodeInto pat s = .next (s.answer .hazard 0) := by
  obtain ⟨-, hrefused⟩ | ⟨hno, -⟩ := encodeInto_cases pat s
  · exact hrefused
  · exact absurd ((encodeHazard_iff s).mpr ⟨hbuf, hd⟩) (by simp [hno])

theorem encodeInto_of_free {s : State} (pat : List Mask) (h : s.cfg.dbuf = true ∨ s.dstate = .idle) :
    encodeInto pat s = .next (State.answer
      { s with mem := s.mem.writeStage (enc s.cfg pat s.split.count s.tmode.num) } .ok
      (encodeLengths s.cfg s.split.count s.tmode.num)) := by
  obtain ⟨hhaz, -⟩ | ⟨-, hstaged⟩ := encodeInto_cases pat s
  · obtain ⟨hbuf, hd⟩ := (encodeHazard_iff s).mp hhaz
    simp [hbuf, hd] at h
  · exact hstaged

/-- Both lengths fit in their half of RDATA. -/
theorem encodeLengths_toNat {c : Config} (h : c.Wf) {k t : Nat} (hk : k ≤ 4) (ht : t ≤ 1) :
    (encodeLengths c k t).toNat = contentLength c k t * 2 ^ 16 + c.regionPairs := by
  have hcontent := contentLength_le h hk ht
  obtain ⟨-, ⟨-, hregion⟩, -⟩ := h
  rw [encodeLengths, BitVec.toNat_append, BitVec.toNat_ofNat, BitVec.toNat_ofNat, Nat.mod_eq_of_lt (by omega),
    Nat.mod_eq_of_lt (by omega), ← Nat.shiftLeft_add_eq_or_of_lt (by omega), Nat.shiftLeft_eq]

/-- The lengths that either encode command answers in a state of the invariant. -/
theorem encodeLengths_of_inv {s : State} (h : s.Inv) :
    (encodeLengths s.cfg s.split.count s.tmode.num).toNat =
      s.cfg.A * (2 + s.split.count * (3 + s.tmode.num)) * 2 ^ 16 + s.cfg.regionPairs :=
  encodeLengths_toNat h.cfgWf (split_count_le _) (timing_num_le _)

theorem mergedPattern_length (s : State) : s.mergedPattern.length = s.cfg.A := by
  simp [State.mergedPattern]

theorem mergedPattern_getD {s : State} {a : Nat} (ha : a < s.cfg.A) : s.mergedPattern.getD a 0 = s.mergedWord a := by
  simp [State.mergedPattern, List.getD_eq_getElem?_getD, ha]

/-- MERGED a answers word a of the merged pattern. -/
theorem exec_merged_mergedPattern {s : State} (h : s.Inv) {a : Nat} (ha : a < s.cfg.A) :
    exec (.merged (BitVec.ofNat 5 a)) s = .next (s.answer .ok ((s.mergedPattern.getD a 0).setWidth 32)) := by
  obtain ⟨⟨-, hA, -⟩, -⟩ := h.cfgWf
  have hidx : (BitVec.ofNat 5 a).toNat = a := Nat.mod_eq_of_lt (by omega)
  rw [mergedPattern_getD ha]
  simp only [exec, execMerged, hidx, ok_eq]

/-! ### The region reads (41_encoder.md R211, R212) -/

theorem stage_getElem? {s : State} (h : s.Inv) {i : Nat} (hi : i < s.cfg.regionPairs) :
    s.mem.stage[i]? = some (s.mem.stageAt i) := by
  obtain ⟨-, -, -, hlen, -⟩ := h.memWf
  exact getElem?_eq_some_getD 0 (hlen ▸ hi)

theorem active_getElem? {s : State} (h : s.Inv) {i : Nat} (hi : i < s.cfg.regionPairs) :
    (s.mem.active s.cfg.dbuf)[i]? = some (s.mem.activeAt s.cfg.dbuf i) :=
  getElem?_eq_some_getD 0 (active_length h.memWf ▸ hi)

/-! ### The encoding function, settled -/

/-- Settles O26: `pw_getLsbD`, where a legal port map keeps every position below 16. -/
theorem pairCarriesMaskAndClocks : Obligations.PairCarriesMaskAndClocks := by
  intro c m ac pc i h
  have hprim : ∀ p, p < c.P → _ := fun p hp => prim_eq_some_iff (i := i) h hp
  obtain ⟨-, -, hlt⟩ := h
  have haclk : c.pmap.aclk < 16 := hlt _ (by simp)
  have hpclk : c.pmap.pclk < 16 := hlt _ (by simp)
  rw [pw_getLsbD]
  refine or_congr (exists_congr fun p => and_congr_right fun hp => and_congr_right fun _ => (hprim p hp).symm)
    (or_congr (and_congr_right fun _ => ?_) (and_congr_right fun _ => ?_))
  · exact and_iff_right_of_imp fun hi => hi ▸ haclk
  · exact and_iff_right_of_imp fun hi => hi ▸ hpclk

/-- Settles O27: the primitive bits are the mask (`primBits_default`); the clocks stand on bits 14 and 15. -/
theorem defaultPortMapPairs : Obligations.DefaultPortMapPairs := by
  intro c m ac pc _ hmap hm
  rw [pw, primBits_default hmap hm, hmap]
  rfl

/-- Settles O28: the entries as `defaultSplitMask`; check 5 is that of SMALL, which has the same table. -/
theorem defaultSplitTableMasks : Obligations.DefaultSplitTableMasks := by
  refine ⟨fun P k j p hP hk hj => ?_, by decide, fun c hP htable => splitOk_of_same_table hP htable small_splitOk⟩
  rw [defaultSplitTable_entry P hk hj]
  exact defaultSplitMask_getLsbD hP k j p

/-- Settles O31: `enc_at` for the head of a slot, `enc_phase` for its phases, `enc_backfill` past the content. -/
theorem encodedRegionLayout : Obligations.EncodedRegionLayout := by
  intro c pat k t h _ hk ht
  refine ⟨enc_length h pat hk ht, fun a ha => ⟨?_, ?_, fun j hj => ?_⟩, fun i hi hlt => enc_backfill ht hi hlt⟩
  · exact enc_at (o := 0) ht ha (by omega)
  · exact enc_at (o := 1) ht ha (by omega)
  · have hphase : ∀ o, o < 3 + t → _ := fun o ho => enc_phase (pat := pat) (o := o) ht ha hj ho
    refine ⟨_, _, rfl, rfl, hphase 0 (by omega), hphase 1 (by omega), ?_, ?_⟩
    · rintro rfl
      exact hphase 2 (by omega)
    · rw [Nat.add_assoc _ 2 t, hphase (2 + t) (by omega)]
      exact phasePairs_last c _ ht

/-! ### The encoder commands, settled -/

/-- Settles O34: the pattern is `State.mergedPattern`, word by word the answer of MERGED. -/
theorem encodeStagesMergedPattern : Obligations.EncodeStagesMergedPattern := by
  intro s h
  exact ⟨fun A wd => decode_bare_word (op := 0x22) rfl rfl rfl, encodeInto_of_hazard s.mergedPattern,
    fun hfree => ⟨s.mergedPattern, _, mergedPattern_length s, fun a ha => exec_merged_mergedPattern h ha,
      encodeInto_of_free s.mergedPattern hfree, encodeLengths_of_inv h⟩⟩

/-- Settles O35: as O34, with the pattern operand. -/
theorem encinStagesOperandPattern : Obligations.EncinStagesOperandPattern := by
  intro s h
  exact ⟨fun A wd => decode_bare_word (op := 0x23) rfl rfl rfl, encodeInto_of_hazard s.mem.inPat,
    fun hfree => ⟨_, encodeInto_of_free s.mem.inPat hfree, encodeLengths_of_inv h⟩⟩

/-- Settles O29: the operand is clamped (`splitOperand_count`). -/
theorem setSplitClamps : Obligations.SetSplitClamps :=
  fun _ v => ⟨fun _ => decode_bare_word (op := 0x20) rfl rfl rfl, splitOperand v, splitOperand_count v, rfl⟩

/-- Settles O30: by whether the operand is a legal timing mode. -/
theorem setTimingAppliesOrIgnores : Obligations.SetTimingAppliesOrIgnores := by
  intro s v
  refine ⟨fun A => decode_bare_word (op := 0x21) rfl rfl rfl, fun hv => ?_, fun hv => ?_⟩
  · obtain ⟨t, ht, hset⟩ | ⟨hnone, -⟩ := execSettmode_cases v s
    · exact ⟨t, timingOperand_some ht, hset⟩
    · have := timingOperand_none.mp hnone
      omega
  · obtain ⟨t, ht, -⟩ | ⟨-, hignored⟩ := execSettmode_cases v s
    · simp [timingOperand_none.mpr hv] at ht
    · exact hignored

/-- Settles O36: by whether the index is inside the region; with DBUF = 0 the active region is the staging region. -/
theorem regionReadsAnswerOnePair : Obligations.RegionReadsAnswerOnePair := by
  intro s i h
  refine ⟨fun A => ⟨decode_bare_word (op := 0x24) rfl rfl rfl, decode_bare_word (op := 0x25) rfl rfl rfl⟩,
    fun hge => ?_, fun hlt => ?_⟩
  · obtain ⟨-, hstg⟩ := (execRdstg_cases i s).resolve_right fun hin => absurd hin.1 (by omega)
    obtain ⟨-, hact⟩ := (execRdact_cases i s).resolve_right fun hin => absurd hin.1 (by omega)
    exact ⟨hstg, hact⟩
  · obtain ⟨-, hstg⟩ := (execRdstg_cases i s).resolve_left fun hout => absurd hout.1 (by omega)
    obtain ⟨-, hact⟩ := (execRdact_cases i s).resolve_left fun hout => absurd hout.1 (by omega)
    have hread := active_getElem? h hlt
    refine ⟨_, _, stage_getElem? h hlt, hstg, hact, fun hbuf => ?_, fun hbuf => ?_⟩
    · rwa [hbuf] at hread ⊢
    · rw [hbuf]
      rfl

end Sys2Proof.Machine

/-! PROOFS. The transfer dispatcher (42_dispatcher.md): what a tick does in a state of the invariant, what the commands leave
alone and the fields of the status register, then the statements. -/

namespace Sys2Proof.Machine

/-! ### One tick, by what it does (42_dispatcher.md R241) -/

theorem tick_of_arms {s : State} (h : s.Inv) (ha : s.Arms) : tick s = s.arm := by
  obtain ⟨hd, hcount⟩ := ha
  simp only [tick, hd, tmrNext_toNat h, hcount, if_true]

theorem tick_of_waits {s : State} (h : s.Inv) (hd : s.dstate ≠ .inflight) (ha : ¬ s.Arms) : tick s = s.pendEdge := by
  unfold tick
  cases hs : s.dstate with
  | idle => rfl
  | arming => exact if_neg fun hcount => ha ⟨hs, tmrNext_toNat h ▸ hcount⟩
  | inflight => exact absurd hs hd

theorem tick_of_completes {s : State} (hc : s.Completes) : tick s = s.complete := by
  obtain ⟨⟨hd, hedge⟩, hlast⟩ := hc
  simp [tick, hd, State.edge, hedge, State.lastPair, hlast]

theorem tick_of_moves {s : State} (hm : s.Moves) (hc : ¬ s.Completes) : tick s = s.drivePair := by
  obtain ⟨hd, hedge⟩ := hm
  have hlast : s.pairIdx.toNat + 1 ≠ s.cfg.regionPairs := fun hlast => hc ⟨⟨hd, hedge⟩, hlast⟩
  simp [tick, hd, State.edge, hedge, State.lastPair, hlast]

theorem tick_of_no_edge {s : State} (hd : s.dstate = .inflight) (hedge : s.tmr.toNat ≠ s.cfg.tmrTop) :
    tick s = s.countTick := by
  simp [tick, hd, State.edge, hedge]

/-- A trigger edge outside a transfer sets TRIG_PEND, and nothing but arming clears it (42_dispatcher.md R243). -/
theorem pendEdge_trigPend_eq (s : State) :
    s.pendEdge.trigPend = if s.tmr.toNat = s.cfg.tmrTop then true else s.trigPend := by
  by_cases hedge : s.tmr.toNat = s.cfg.tmrTop <;> simp [State.edge, hedge]

/-- Settles O42: by what the tick does. -/
theorem tickInOrder : Obligations.TickInOrder := by
  intro s h
  rw [← tmrNext_eq h]
  by_cases hd : s.dstate = .inflight
  · have hna : ¬ s.Arms := by simp [hd]
    have hnp : ¬ (s.dstate ≠ .inflight ∧ s.tmr.toNat = s.cfg.tmrTop) := fun hp => hp.1 hd
    rw [← pairIdx_eq h hd]
    by_cases hm : s.Moves
    · by_cases hc : s.Completes
      · simp only [tick_of_completes hc, if_neg hna, if_neg hnp, if_pos hc, if_pos hm]
        rfl
      · simp only [tick_of_moves hm hc, if_neg hna, if_neg hnp, if_neg hc, if_pos hm]
        rfl
    · have hc : ¬ s.Completes := fun hc => hm hc.1
      simp only [tick_of_no_edge hd fun hedge => hm ⟨hd, hedge⟩, if_neg hna, if_neg hnp, if_neg hc, if_neg hm]
      rfl
  · have hm : ¬ s.Moves := fun hm => hd hm.1
    have hc : ¬ s.Completes := fun hc => hm hc.1
    by_cases ha : s.Arms
    · simp only [tick_of_arms h ha, if_pos ha, if_neg hc, if_neg hm]
      rfl
    · simp only [tick_of_waits h hd ha, if_neg ha, if_neg hc, if_neg hm, ne_eq, hd, not_false_eq_true, true_and,
        ← pendEdge_trigPend_eq]
      rfl

theorem tick_dstate {s : State} (h : s.Inv) :
    (tick s).dstate = if s.Arms then .inflight else if s.Completes then .idle else s.dstate :=
  congrArg State.dstate (tickInOrder s h)

theorem tick_elapsed {s : State} (h : s.Inv) : (tick s).elapsed = if s.Completes then 0 else s.elapsedNext :=
  congrArg State.elapsed (tickInOrder s h)

theorem tick_port {s : State} (h : s.Inv) :
    (tick s).port = if s.Moves then s.mem.activeAt s.cfg.dbuf s.pairIdx.toNat else s.port :=
  congrArg State.port (tickInOrder s h)

/-! ### A tick keeps the invariant -/

theorem countTick_inv {s : State} (h : s.Inv) : s.countTick.Inv :=
  { h with
    tmrLe := by
      have hlt : (s.tmr.toNat + 1) % s.cfg.period < s.cfg.period := Nat.mod_lt _ (Nat.succ_pos _)
      rw [State.countTick_tmr, tmrNext_toNat h]
      exact Nat.le_of_lt_succ hlt
    elapsedLe := by
      rw [State.countTick_elapsed, elapsedNext_toNat h]
      exact Nat.min_le_right _ _
    settled := fun hd => by
      rw [State.countTick_elapsed, elapsedNext_eq h hd]
      exact h.settled hd }

theorem pendEdge_inv {s : State} (h : s.Inv) : s.pendEdge.Inv := { countTick_inv h with }

theorem arm_inv {s : State} (h : s.Inv) (hd : s.dstate = .arming) : s.arm.Inv :=
  { countTick_inv h with
    tmrLe := Nat.zero_le _
    pairLe := Nat.zero_le _
    pairLt := fun _ => by
      obtain ⟨⟨hA, -⟩, ⟨hregion, -⟩, -⟩ := h.cfgWf
      show 0 < s.cfg.regionPairs
      omega
    settled := fun _ => (countTick_inv h).settled (by simp [hd]) }

theorem drivePair_inv {s : State} (h : s.Inv) (hd : s.dstate = .inflight)
    (hlast : s.pairIdx.toNat + 1 ≠ s.cfg.regionPairs) : s.drivePair.Inv := by
  have hlt := h.pairLt hd
  have hidx : s.drivePair.pairIdx.toNat = s.pairIdx.toNat + 1 := pairIdx_succ h hd
  have hnext : s.drivePair.pairIdx.toNat < s.cfg.regionPairs := by omega
  exact { countTick_inv h with pairLe := hnext.le, pairLt := fun _ => hnext }

theorem complete_inv {s : State} (h : s.Inv) (hd : s.dstate = .inflight)
    (hlast : s.pairIdx.toNat + 1 = s.cfg.regionPairs) : s.complete.Inv :=
  { countTick_inv h with
    elapsedLe := Nat.zero_le _
    pairLe := ((pairIdx_succ h hd).trans hlast).le
    pairLt := nofun
    settled := fun hne => absurd rfl hne }

theorem tick_inv {s : State} (h : s.Inv) : (tick s).Inv := by
  obtain ⟨-, ht⟩ | ⟨hd, -, ht⟩ | ⟨-, -, ht⟩ | ⟨hd, -, hlast, ht⟩ | ⟨hd, -, hlast, ht⟩ | ⟨-, -, ht⟩ := tick_cases s
  all_goals rw [ht]
  · exact pendEdge_inv h
  · exact arm_inv h hd
  · exact pendEdge_inv h
  · exact complete_inv h hd hlast
  · exact drivePair_inv h hd hlast
  · exact countTick_inv h

theorem ticks_inv {s : State} (h : s.Inv) (n : Nat) : (ticks n s).Inv := by
  induction n generalizing s with
  | zero => exact h
  | succ n ih => exact ih (tick_inv h)

theorem ticks_idle {s : State} (hd : s.dstate = .idle) (n : Nat) : (ticks n s).dstate = .idle := by
  induction n generalizing s with
  | zero => exact hd
  | succ n ih => exact ih (by simp [tick, hd])

/-- The settle counter of an idle block counts up to SETTLE + 1 (42_dispatcher.md R248). -/
theorem ticks_elapsed_of_idle {s : State} (h : s.Inv) (hd : s.dstate = .idle) (n : Nat) :
    (ticks n s).elapsed.toNat = min (s.elapsed.toNat + n) (s.cfg.settle + 1) := by
  induction n with
  | zero => exact (Nat.min_eq_left h.elapsedLe).symm
  | succ n ih =>
    have hc : ¬ (ticks n s).Completes := by simp [ticks_idle hd n]
    rw [ticks_succ, tick_elapsed (ticks_inv h n), if_neg hc, elapsedNext_toNat (ticks_inv h n), ih, ticks_cfg]
    omega

/-! ### The commands and DSTATE -/

theorem exec_dispatch_of_not_busy {s : State} (hb : s.busy = false) :
    exec .dispatch s = .next (State.answer
      { s with mem := s.mem.copyToActive s.cfg.dbuf, trigPend := false, dstate := .arming } .ok 0) := by
  obtain ⟨hbusy, -⟩ | ⟨-, hrun⟩ := execDispatch_cases s
  · simp [hb] at hbusy
  · exact hrun

theorem exec_dispatch_of_busy {s : State} (hb : s.busy = true) : exec .dispatch s = .next (s.answer .busy 0) := by
  obtain ⟨-, hrun⟩ | ⟨hfree, -⟩ := execDispatch_cases s
  · exact hrun
  · simp [hb] at hfree

theorem idle_of_not_busy {s : State} (hb : s.busy = false) : s.dstate = .idle := by
  by_contra hd
  simp [(busy_iff s).mpr (.inl hd)] at hb

/-- DSTATE is kept if the outcome's next state, however it is named, keeps it. -/
theorem dstate_of_outcome {s t u : State} {r : Result} (h : r = .next t) (hu : r = .next u) (hd : u.dstate = s.dstate) :
    t.dstate = s.dstate := by
  cases h.symm.trans hu
  exact hd

/-- No command but DISPATCH writes DSTATE (10_state.md R58). -/
theorem exec_dstate {i : Instr} {s t : State} (h : exec i s = .next t) (hi : i ≠ .dispatch) : t.dstate = s.dstate := by
  cases i with
  | add => obtain ⟨-, hr⟩ | ⟨-, hr⟩ := execAdd_cases s <;> exact dstate_of_outcome h hr rfl
  | next side =>
    obtain ⟨-, hr⟩ | ⟨-, hr⟩ := execNext_cases side s
    · exact dstate_of_outcome h hr rfl
    · exact dstate_of_outcome h hr (State.loopReset_dstate _)
  | pkapos side => obtain ⟨-, hr⟩ | ⟨-, hr⟩ := execPkapos_cases side s <;> exact dstate_of_outcome h hr rfl
  | pkapat side a => obtain ⟨-, hr⟩ | ⟨-, hr⟩ := execPkapat_cases side a s <;> exact dstate_of_outcome h hr rfl
  | encode => obtain ⟨-, hr⟩ | ⟨-, hr⟩ := encodeInto_cases s.mergedPattern s <;> exact dstate_of_outcome h hr rfl
  | encin => obtain ⟨-, hr⟩ | ⟨-, hr⟩ := encodeInto_cases s.mem.inPat s <;> exact dstate_of_outcome h hr rfl
  | rdstg v => obtain ⟨-, hr⟩ | ⟨-, hr⟩ := execRdstg_cases v s <;> exact dstate_of_outcome h hr rfl
  | rdact v => obtain ⟨-, hr⟩ | ⟨-, hr⟩ := execRdact_cases v s <;> exact dstate_of_outcome h hr rfl
  | setmode v => obtain ⟨_, -, hr⟩ | ⟨-, hr⟩ := execSetmode_cases v s <;> exact dstate_of_outcome h hr rfl
  | setpmode v => obtain ⟨_, -, hr⟩ | ⟨-, hr⟩ := execSetpmode_cases v s <;> exact dstate_of_outcome h hr rfl
  | setact side v => obtain ⟨_, -, hr⟩ | ⟨-, hr⟩ := execSetact_cases side v s <;> exact dstate_of_outcome h hr rfl
  | settmode v => obtain ⟨_, -, hr⟩ | ⟨-, hr⟩ := execSettmode_cases v s <;> exact dstate_of_outcome h hr rfl
  | setirq v => obtain ⟨_, -, hr⟩ | ⟨-, hr⟩ := execSetirq_cases v s <;> exact dstate_of_outcome h hr rfl
  | dispatch => exact absurd rfl hi
  | _ => exact dstate_of_outcome h rfl rfl

/-- The one command that changes DSTATE is a DISPATCH accepted while the block is not busy (42_dispatcher.md R240, R250). -/
theorem exec_dstate_edge {i : Instr} {s t : State} (h : exec i s = .next t) (hne : t.dstate ≠ s.dstate) :
    i = .dispatch ∧ s.busy = false ∧ t.dstate = .arming := by
  have hi : i = .dispatch := not_not.mp fun hi => hne (exec_dstate h hi)
  subst hi
  cases hb : s.busy with
  | true => exact absurd (dstate_of_outcome h (exec_dispatch_of_busy hb) rfl) hne
  | false => cases h.symm.trans (exec_dispatch_of_not_busy hb); exact ⟨rfl, rfl, rfl⟩

/-! ### The status register (10_state.md R56) -/

/-- The fields of STAT, each at its lowest bit and of its width. -/
theorem stat_fields (s : State) :
    s.stat.extractLsb' 0 2 = s.mode.code ∧ s.stat.extractLsb' 2 2 = s.pmode.code ∧
    s.stat.extractLsb' 4 1 = BitVec.ofBool s.act.odd ∧ s.stat.extractLsb' 5 1 = BitVec.ofBool s.act.even ∧
    s.stat.extractLsb' 6 3 = s.split.code ∧ s.stat.extractLsb' 9 1 = s.tmode.code ∧
    s.stat.extractLsb' 10 2 = s.dstate.code ∧ s.stat.extractLsb' 12 1 = BitVec.ofBool s.busy ∧
    s.stat.extractLsb' 13 1 = BitVec.ofBool s.donePend ∧ s.stat.extractLsb' 14 1 = BitVec.ofBool s.irqEn ∧
    s.stat.extractLsb' 15 1 = BitVec.ofBool s.trigPend ∧ s.stat.extractLsb' 16 1 = BitVec.ofBool s.cfg.dbuf ∧
    s.stat.extractLsb' 17 1 = BitVec.ofBool s.irq := by
  simp (disch := omega) only [State.stat, BitVec.extractLsb'_append_eq_of_le, BitVec.extractLsb'_append_eq_of_add_le,
    BitVec.extractLsb'_eq_self, Nat.reduceSub, and_self]

/-- Bits 31..18 of STAT are 0. -/
theorem stat_getLsbD_of_ge (s : State) {i : Nat} (hi : 18 ≤ i) : s.stat.getLsbD i = false := by
  simp (disch := omega) only [State.stat, BitVec.getLsbD_append, if_neg, BitVec.getLsbD_zero]

/-- A flag held in a field of width 1 is the bit at its position. -/
theorem getLsbD_of_flag {x : Word} {i : Nat} {b : Bool} (h : x.extractLsb' i 1 = BitVec.ofBool b) : x.getLsbD i = b := by
  simpa using congrArg (BitVec.getLsbD · 0) h

theorem split_code_toNat (k : Split) : k.code.toNat = k.count := by
  cases k <;> rfl

theorem tmode_code_toNat (t : TimingMode) : t.code.toNat = t.num := by
  cases t <;> rfl

/-! ### The tick, settled -/

/-- Settles O44: the arming tick leaves the settle counter, which is saturated while a transfer is armed. -/
theorem armingTickStartsTransfer : Obligations.ArmingTickStartsTransfer := by
  intro s h hd
  have hne : s.dstate ≠ .inflight := by simp [hd]
  refine ⟨fun hcount => ?_, fun hcount => ?_⟩
  · rw [tick_of_arms h ⟨hd, hcount⟩]
    simp only [State.arm, State.countTick, elapsedNext_eq h (by simp [hd])]
  · rw [tick_of_waits h hne fun ha => hcount ha.2]
    exact ⟨hd, rfl⟩

/-- Settles O45: no edge, an edge before the last pair, the edge of the last pair; the settle counter is saturated. -/
theorem transferStepAndCompletion : Obligations.TransferStepAndCompletion := by
  intro s h hd
  have hel : s.elapsedNext = s.elapsed := elapsedNext_eq h (by simp [hd])
  refine ⟨fun hedge => ?_, fun hedge => ?_⟩
  · have htop := h.tmrLe
    have hcount : s.tmrNext = BitVec.ofNat 16 (s.tmr.toNat + 1) := by
      rw [tmrNext_eq h, Nat.mod_eq_of_lt (by unfold Config.period; omega)]
    rw [tick_of_no_edge hd hedge, State.countTick, hcount, hel]
  · have hport : (tick s).port = s.mem.activeAt s.cfg.dbuf s.pairIdx.toNat := (tick_port h).trans (if_pos ⟨hd, hedge⟩)
    refine ⟨_, active_getElem? h (h.pairLt hd), fun hlt => ?_, fun hlast => ?_,
      congrArg (BitVec.extractLsb' 0 8) hport, congrArg (BitVec.extractLsb' 8 8) hport⟩
    · rw [tick_of_moves ⟨hd, hedge⟩ fun hc => hlt.ne hc.2]
      simp only [State.drivePair, State.countTick, tmrNext_edge hedge, hel, pairIdx_eq h hd]
    · rw [tick_of_completes ⟨⟨hd, hedge⟩, hlast⟩, ← hlast]
      simp only [State.complete, State.drivePair, State.countTick, tmrNext_edge hedge, pairIdx_eq h hd]

/-- Settles O46: `tick_elapsed` for one tick, `ticks_elapsed_of_idle` for n. -/
theorem settleCounterSaturates : Obligations.SettleCounterSaturates := by
  intro s h
  refine ⟨fun hd hedge hlast => ?_, fun hc => ?_, ticks_elapsed_of_idle h⟩
  · rw [tick_elapsed h, if_pos ⟨⟨hd, hedge⟩, hlast⟩]
  · rw [tick_elapsed h, if_neg fun ⟨⟨hd, hedge⟩, hlast⟩ => hc ⟨hd, hedge, hlast⟩, elapsedNext_toNat h]

/-- Settles O55: by the event; an ILLEGAL answer keeps DSTATE, and `tick_dstate` names the two ticks that change it. -/
theorem dispatcherStateEdges : Obligations.DispatcherStateEdges := by
  intro s t e h hp hne
  obtain ⟨cw, wd, i, he, hdec, hexec⟩ | ⟨-, -, -, -, -, rfl⟩ | ⟨he, rfl⟩ | ⟨he, rfl⟩ := perform_cases hp
  · obtain ⟨rfl, hb, harm⟩ := exec_dstate_edge hexec hne
    exact .inl ⟨idle_of_not_busy hb, harm, hb, cw, wd, he, hdec⟩
  · exact absurd rfl hne
  · rw [tick_dstate h] at hne ⊢
    by_cases ha : s.Arms
    · exact .inr (.inl ⟨ha.1, if_pos ha, he, ha.2⟩)
    · by_cases hc : s.Completes
      · exact .inr (.inr (.inl ⟨hc.1.1, by rw [if_neg ha, if_pos hc], he, hc.1.2, hc.2⟩))
      · rw [if_neg ha, if_neg hc] at hne
        exact absurd rfl hne
  · exact .inr (.inr (.inr ⟨he, rfl⟩))

/-! ### The dispatcher and status commands, settled -/

/-- Settles O40: the fields by `stat_fields`. -/
theorem statusRegisterLayout : Obligations.StatusRegisterLayout := by
  intro s
  obtain ⟨hmode, hpmode, hodd, heven, hsplit, htmode, hdstate, hbusy, hdone, hirqEn, htrig, hdbuf, hirq⟩ := stat_fields s
  exact ⟨fun A wd => decode_bare_word (op := 0x34) rfl rfl rfl, s.stat, rfl, hmode, hpmode, getLsbD_of_flag hodd,
    getLsbD_of_flag heven, hsplit ▸ split_code_toNat s.split, htmode ▸ tmode_code_toNat s.tmode, hdstate,
    getLsbD_of_flag hbusy, getLsbD_of_flag hdone, getLsbD_of_flag hirqEn, getLsbD_of_flag htrig, getLsbD_of_flag hdbuf,
    getLsbD_of_flag hirq, fun i hi => stat_getLsbD_of_ge s hi⟩

/-- Settles O37: by whether the block is busy, and the copy by DBUF. -/
theorem dispatchCopiesAndArms : Obligations.DispatchCopiesAndArms := by
  intro s
  refine ⟨fun A wd => decode_bare_word (op := 0x30) rfl rfl rfl, exec_dispatch_of_busy, fun hb => ?_⟩
  have hrun := exec_dispatch_of_not_busy hb
  cases hbuf : s.cfg.dbuf with
  | true => rw [hbuf] at hrun; exact ⟨s.mem.stage, hrun, fun _ => rfl, nofun⟩
  | false => rw [hbuf] at hrun; exact ⟨s.mem.activeBuf, hrun, nofun, fun _ => rfl⟩

/-- Settles O38: `busy()` in terms of DSTATE and ELAPSED. -/
theorem isBusyAnswersBusy : Obligations.IsBusyAnswersBusy := by
  intro s
  refine ⟨fun A wd => decode_bare_word (op := 0x31) rfl rfl rfl, fun hbusy => ?_, fun hd hsettle => ?_⟩
  · simp only [exec, execIsbusy, (busy_iff s).mpr hbusy, ok_eq, if_true]
  · have hb : ¬ s.busy = true := by
      rw [busy_iff]
      rintro (hne | hle)
      · exact hne hd
      · omega
    simp only [exec, execIsbusy, if_neg hb, ok_eq]

/-- Settles O39: ACKDONE in every state, SETIRQ by whether the operand is a legal value. -/
theorem ackDoneAndSetIrqDriveTheLine : Obligations.AckDoneAndSetIrqDriveTheLine := by
  intro s v
  refine ⟨fun A wd => decode_bare_word (op := 0x32) rfl rfl rfl, ⟨_, rfl, rfl, rfl, rfl⟩,
    fun A => decode_bare_word (op := 0x33) rfl rfl rfl, fun hv => ?_, fun hv => ?_⟩
  · obtain ⟨b, hb, hset⟩ | ⟨hnone, -⟩ := execSetirq_cases v s
    · refine ⟨_, hset, by rw [bitOperand_getLsbD hb], ?_⟩
      rw [State.irq, Bool.and_eq_true, ← bitOperand_some hb, Bool.toNat_eq_one]
    · have := bitOperand_none.mp hnone
      omega
  · obtain ⟨b, hb, -⟩ | ⟨-, hignored⟩ := execSetirq_cases v s
    · simp [bitOperand_none.mpr hv] at hb
    · exact hignored

/-- Settles O41: the readbacks answer a register zero-extended, and no arm writes. -/
theorem readbacksAnswerAndNopDoesNothing : Obligations.ReadbacksAnswerAndNopDoesNothing :=
  fun s => ⟨fun _ _ => ⟨decode_bare_word (op := 0x35) rfl rfl rfl, decode_bare_word (op := 0x36) rfl rfl rfl,
    decode_bare_word (op := 0x37) rfl rfl rfl, decode_bare_word (op := 0x38) rfl rfl rfl,
    decode_bare_word (op := 0x00) rfl rfl rfl⟩,
    ⟨_, _, _, rfl, setWidth_word_toNat s.pairIdx, rfl, setWidth_word_toNat s.port, rfl, setWidth_word_toNat s.tmr⟩,
    rfl, rfl⟩

end Sys2Proof.Machine

/-! PROOFS. The answer ILLEGAL (60_exceptions.md R302): the fields of a command word as the numbers the rule speaks of, the
causes in the decoder's terms, the commands that can answer ILLEGAL, then the statement. -/

namespace Sys2Proof.Machine

/-! ### The fields of a command word as numbers (30_encoding.md R111) -/

theorem opField_toNat (cw : CmdWord) : (opField cw).toNat = cw.toNat / 1024 := by
  have hlt := cw.isLt
  simp only [opField, BitVec.extractLsb'_toNat, Nat.shiftRight_eq_div_pow]
  omega

theorem idxField_toNat (cw : CmdWord) : (idxField cw).toNat = cw.toNat / 16 % 32 := by
  simp only [idxField, BitVec.extractLsb'_toNat, Nat.shiftRight_eq_div_pow, Nat.reducePow]

theorem idxField_eq_zero_iff (cw : CmdWord) : idxField cw = 0 ↔ cw.toNat / 16 % 32 = 0 := by
  rw [← idxField_toNat, ← BitVec.toNat_inj]
  rfl

theorem rsvField_eq_zero_iff (cw : CmdWord) : rsvField cw = 0 ↔ cw.toNat % 16 = 0 := by
  rw [← BitVec.toNat_inj, rsvField, BitVec.extractLsb'_toNat]
  rfl

theorem sideField_eq_odd_iff (cw : CmdWord) : sideField cw = .odd ↔ cw.toNat / 512 % 2 = 0 := by
  have hbit : cw.getLsbD 9 = decide (cw.toNat / 512 % 2 = 1) := Nat.testBit_eq_decide_div_mod_eq
  rw [sideField, hbit]
  obtain hs | hs := Nat.mod_two_eq_zero_or_one (cw.toNat / 512) <;> simp [hs]

/-! ### The opcode map, read by opcode (30_encoding.md R113) -/

/-- The opcode alone decides whether the map has a row. -/
theorem commandOf_eq_none_iff_bare (op : BitVec 6) (side : Side) (a : SlotIdx) (wd : Word) :
    commandOf op side a wd = none ↔ commandOf op .odd 0 0 = none := by
  unfold commandOf
  split <;> simp

/-- The opcodes without a row (60_exceptions.md R302, item 1). -/
theorem commandOf_eq_none_iff (op : BitVec 6) (side : Side) (a : SlotIdx) (wd : Word) :
    commandOf op side a wd = none ↔
      (0x14 ≤ op.toNat ∧ op.toNat ≤ 0x1F) ∨ (0x26 ≤ op.toNat ∧ op.toNat ≤ 0x2F) ∨ 0x39 ≤ op.toNat := by
  rw [commandOf_eq_none_iff_bare]
  revert op
  decide

theorem side_eq_none_iff (i : Instr) : i.side = none ↔ (opcode i).toNat ∉ [0x04, 0x05, 0x06, 0x07, 0x08, 0x09, 0x12] := by
  cases i <;> simp [Instr.side, opcode]

theorem slotIdx_eq_none_iff (i : Instr) : i.slotIdx = none ↔ (opcode i).toNat ∉ [0x02, 0x06, 0x08, 0x0C] := by
  cases i <;> simp [Instr.slotIdx, opcode]

/-- The commands that read a region pair, by opcode. -/
theorem opcode_mem_regionReads_iff (i : Instr) :
    (opcode i).toNat ∈ [0x24, 0x25] ↔ ∃ v, i = .rdstg v ∨ i = .rdact v := by
  cases i <;> simp [opcode]

/-- A region read carries the data word of the command. -/
theorem regionRead_operand {A : Nat} {cw : CmdWord} {wd v : Word} {i : Instr} (hd : decode A cw wd = .command i)
    (hi : i = .rdstg v ∨ i = .rdact v) : v = wd := by
  obtain ⟨hc, -⟩ := decode_command_iff.mp hd
  obtain ⟨-, -, -, hdata⟩ := commandOf_some hc
  obtain rfl | rfl := hi <;> exact hdata v rfl

/-! ### The causes in the decoder's terms -/

theorem illegalCause_of_unassigned {c : Config} {cw : CmdWord} {wd : Word}
    (hc : commandOf (opField cw) (sideField cw) (idxField cw) wd = none) : IllegalCause c cw wd := by
  rw [commandOf_eq_none_iff, opField_toNat] at hc
  obtain hlow | hmid | hhigh := hc
  · exact .inl hlow
  · exact .inr (.inl hmid)
  · exact .inr (.inr (.inl hhigh))

/-- The causes for a word whose opcode has a row: a check of decoding fails, or a region read is out of range. -/
theorem illegalCause_iff_of_assigned {c : Config} {cw : CmdWord} {wd : Word} {i : Instr}
    (hc : commandOf (opField cw) (sideField cw) (idxField cw) wd = some i) :
    IllegalCause c cw wd ↔ rsvField cw ≠ 0 ∨ (sideField cw ≠ .odd ∧ i.side = none) ∨
      (idxField cw ≠ 0 ∧ i.slotIdx = none) ∨ (c.A ≤ (idxField cw).toNat ∧ i.slotIdx ≠ none) ∨
      (c.regionPairs ≤ wd.toNat ∧ ∃ v, i = .rdstg v ∨ i = .rdact v) := by
  obtain ⟨hop, -⟩ := commandOf_some hc
  have hrow : ¬ commandOf (opField cw) (sideField cw) (idxField cw) wd = none := by simp [hc]
  rw [commandOf_eq_none_iff, opField_toNat, not_or, not_or] at hrow
  obtain ⟨hlow, hmid, hhigh⟩ := hrow
  rw [IllegalCause, or_iff_right hlow, or_iff_right hmid, or_iff_right hhigh]
  simp only [ne_eq, side_eq_none_iff, slotIdx_eq_none_iff, ← opcode_mem_regionReads_iff, hop, opField_toNat, idxField_toNat,
    rsvField_eq_zero_iff, sideField_eq_odd_iff, idxField_eq_zero_iff, not_not]

/-- A word that decoding rejects has one of the causes 1 to 5. -/
theorem illegalCause_of_decode_illegal {c : Config} {cw : CmdWord} {wd : Word} {e : DecodeError}
    (hd : decode c.A cw wd = .illegal e) : IllegalCause c cw wd := by
  cases hc : commandOf (opField cw) (sideField cw) (idxField cw) wd with
  | none => exact illegalCause_of_unassigned hc
  | some i =>
    rw [illegalCause_iff_of_assigned hc]
    by_contra hno
    simp only [not_or, not_and, not_not] at hno
    obtain ⟨hrsv, hside, hunused, hrange, -⟩ := hno
    have hcmd : decode c.A cw wd = .command i := decode_command_iff.mpr
      ⟨hc, hrsv, not_imp_not.mp hside, not_imp_not.mp hunused, fun hi => not_le.mp fun hle => hi (hrange hle)⟩
    cases hd.symm.trans hcmd

/-- For a word that decodes, cause 6 is the only one left. -/
theorem illegalCause_iff_of_decode_command {c : Config} {cw : CmdWord} {wd : Word} {i : Instr}
    (hd : decode c.A cw wd = .command i) :
    IllegalCause c cw wd ↔ c.regionPairs ≤ wd.toNat ∧ (i = .rdstg wd ∨ i = .rdact wd) := by
  obtain ⟨hc, hrsv, hside, hunused, hrange⟩ := decode_command_iff.mp hd
  rw [illegalCause_iff_of_assigned hc]
  constructor
  · rintro (hne | ⟨hne, hnone⟩ | ⟨hne, hnone⟩ | ⟨hge, hsome⟩ | ⟨hwd, v, hi⟩)
    · exact absurd hrsv hne
    · exact absurd (hside hnone) hne
    · exact absurd (hunused hnone) hne
    · exact absurd (hrange hsome) hge.not_gt
    · exact ⟨hwd, regionRead_operand hd hi ▸ hi⟩
  · rintro ⟨hwd, hi⟩
    exact .inr (.inr (.inr (.inr ⟨hwd, wd, hi⟩)))

/-! ### The commands that answer ILLEGAL -/

theorem exec_regionRead_illegal {i : Instr} {v : Word} {s : State} (hv : s.cfg.regionPairs ≤ v.toNat)
    (hi : i = .rdstg v ∨ i = .rdact v) : exec i s = .next (s.answer .illegal 0) := by
  obtain rfl | rfl := hi
  · exact ((execRdstg_cases v s).resolve_right fun hin => absurd hin.1 (by omega)).2
  · exact ((execRdact_cases v s).resolve_right fun hin => absurd hin.1 (by omega)).2

/-- The code a command answered is the code its outcome, however it is named, carries. -/
theorem rc_of_outcome {t u : State} {r : Result} {rc : ResultCode} {d : Word} {a : Response} (h : r = .next t)
    (hu : r = .next (u.answer rc d)) (ha : t.response = some a) : a.rc = rc := by
  cases h.symm.trans hu
  cases ha
  rfl

/-- No command but a region read out of range answers ILLEGAL (60_exceptions.md R302, item 6). -/
theorem regionRead_of_exec_illegal {i : Instr} {s t : State} {a : Response} (h : exec i s = .next t)
    (ha : t.response = some a) (hrc : a.rc = .illegal) :
    ∃ v, s.cfg.regionPairs ≤ v.toNat ∧ (i = .rdstg v ∨ i = .rdact v) := by
  have code_eq {u : State} {rc : ResultCode} {d : Word} (hr : exec i s = .next (u.answer rc d)) : rc = .illegal :=
    (rc_of_outcome h hr ha).symm.trans hrc
  cases i with
  | rdstg v =>
    obtain ⟨hv, -⟩ | ⟨-, hr⟩ := execRdstg_cases v s
    · exact ⟨v, hv, .inl rfl⟩
    · cases code_eq hr
  | rdact v =>
    obtain ⟨hv, -⟩ | ⟨-, hr⟩ := execRdact_cases v s
    · exact ⟨v, hv, .inr rfl⟩
    · cases code_eq hr
  | add => obtain ⟨-, hr⟩ | ⟨-, hr⟩ := execAdd_cases s <;> cases code_eq hr
  | next side => obtain ⟨-, hr⟩ | ⟨-, hr⟩ := execNext_cases side s <;> cases code_eq hr
  | pkapos side => obtain ⟨-, hr⟩ | ⟨-, hr⟩ := execPkapos_cases side s <;> cases code_eq hr
  | pkapat side x => obtain ⟨-, hr⟩ | ⟨-, hr⟩ := execPkapat_cases side x s <;> cases code_eq hr
  | encode => obtain ⟨-, hr⟩ | ⟨-, hr⟩ := encodeInto_cases s.mergedPattern s <;> cases code_eq hr
  | encin => obtain ⟨-, hr⟩ | ⟨-, hr⟩ := encodeInto_cases s.mem.inPat s <;> cases code_eq hr
  | dispatch => obtain ⟨-, hr⟩ | ⟨-, hr⟩ := execDispatch_cases s <;> cases code_eq hr
  | setmode v => obtain ⟨_, -, hr⟩ | ⟨-, hr⟩ := execSetmode_cases v s <;> cases code_eq hr
  | setpmode v => obtain ⟨_, -, hr⟩ | ⟨-, hr⟩ := execSetpmode_cases v s <;> cases code_eq hr
  | setact side v => obtain ⟨_, -, hr⟩ | ⟨-, hr⟩ := execSetact_cases side v s <;> cases code_eq hr
  | settmode v => obtain ⟨_, -, hr⟩ | ⟨-, hr⟩ := execSettmode_cases v s <;> cases code_eq hr
  | setirq v => obtain ⟨_, -, hr⟩ | ⟨-, hr⟩ := execSetirq_cases v s <;> cases code_eq hr
  | _ => cases code_eq rfl

/-! ### The statement, settled -/

/-- Settles O3: by whether the word decodes; cause 6 is the only one of a word that does. -/
theorem illegalExactlyForListedCauses : Obligations.IllegalExactlyForListedCauses := by
  intro s cw wd _
  obtain ⟨i, hd, hrun⟩ | ⟨e, hd, hrun⟩ := runCommand_cases cw wd s
  · rw [illegalCause_iff_of_decode_command hd]
    refine ⟨fun ⟨hwd, hi⟩ => hrun.trans (exec_regionRead_illegal hwd hi), ?_⟩
    rintro t ht ⟨d, ha⟩
    obtain ⟨v, hv, hi⟩ := regionRead_of_exec_illegal (hrun.symm.trans ht) ha rfl
    obtain rfl := regionRead_operand hd hi
    exact ⟨hv, hi⟩
  · exact ⟨fun _ => hrun, fun _ _ _ => illegalCause_of_decode_illegal hd⟩

end Sys2Proof.Machine

/-! PROOFS. Reset (70_reset_and_hazards.md R330, R331): the storage a reset leaves, the reset state and the ticks of an idle
block, then the statements. -/

namespace Sys2Proof.Machine

/-! ### The storage after a reset -/

section ZeroStorage

variable (c : Config)

/-- A slot of zero storage is a slot with 0 in every bit, or no slot at all. -/
theorem zero_slotAt (i : Nat) :
    (Memory.zero c).slotAt i = emptySlot c.A ∨ (Memory.zero c).slotAt i = { pos := 0, pat := [] } :=
  (getD_mem_or_default _ i _).imp_left List.eq_of_mem_replicate

@[simp] theorem zero_slotPos (i : Nat) : (Memory.zero c).slotPos i = 0 := by
  obtain hslot | hslot := zero_slotAt c i
  · rw [Memory.slotPos, hslot, emptySlot]
  · rw [Memory.slotPos, hslot]

@[simp] theorem zero_slotPat (i a : Nat) : (Memory.zero c).slotPat i a = 0 := by
  obtain hslot | hslot := zero_slotAt c i
  · rw [Memory.slotPat, hslot]
    exact List.getElem?_getD_replicate_default_eq _ c.A a
  · rw [Memory.slotPat, hslot]
    rfl

@[simp] theorem zero_inPatAt (a : Nat) : (Memory.zero c).inPatAt a = 0 :=
  List.getElem?_getD_replicate_default_eq _ c.A a

@[simp] theorem zero_stageAt (i : Nat) : (Memory.zero c).stageAt i = 0 :=
  List.getElem?_getD_replicate_default_eq _ c.regionPairs i

@[simp] theorem zero_activeAt (dbuf : Bool) (i : Nat) : (Memory.zero c).activeAt dbuf i = 0 := by
  cases dbuf with
  | false => exact zero_stageAt c i
  | true => exact List.getElem?_getD_replicate_default_eq _ _ i

end ZeroStorage

/-! ### The state after a reset -/

section ResetState

variable {s : State}

theorem two_le_slots_of_wf {c : Config} (h : c.Wf) : 2 ≤ c.C := by
  obtain ⟨⟨-, -, -, -, hC, -⟩, -⟩ := h
  exact hC

/-- The settle counter does not wrap: SETTLE + 1 fits in 32 bits (00_scope.md R6 check 4). -/
theorem applyReset_elapsed_toNat (h : s.cfg.Wf) : s.applyReset.elapsed.toNat = s.cfg.settle + 1 := by
  obtain ⟨-, -, -, hsettle, -⟩ := h
  exact Nat.mod_eq_of_lt (by omega)

theorem applyReset_inv (h : s.cfg.Wf) : s.applyReset.Inv := by
  have hC : 1 < s.cfg.C := two_le_slots_of_wf h
  have hpos : 0 < s.cfg.C := by omega
  exact
    { cfgWf := h
      memWf := zero_wf s.cfg
      wLt := hC
      oddLt := hpos
      evenLt := hpos
      tmrLe := Nat.zero_le _
      elapsedLe := (applyReset_elapsed_toNat h).le
      pairLe := Nat.zero_le _
      pairLt := nofun
      settled := fun hne => absurd rfl hne
      answered := nofun }

theorem applyReset_busy (h : s.cfg.Wf) : s.applyReset.busy = false := by
  have hsettled : ¬ s.applyReset.elapsed.toNat ≤ s.cfg.settle := by
    rw [applyReset_elapsed_toNat h]
    exact Nat.not_succ_le_self _
  rw [← Bool.not_eq_true, busy_iff]
  exact not_or_intro (not_not_intro rfl) hsettled

/-- Both sides are empty: the read cursors stand one slot before W. -/
theorem applyReset_unread (h : s.cfg.Wf) (side : Side) : s.applyReset.unread side = 0 := by
  have hone : 1 = (0 + 1) % s.cfg.C := (Nat.mod_eq_of_lt (two_le_slots_of_wf h)).symm
  rw [unread_eq_zero_iff (applyReset_inv h)]
  cases side <;> exact hone

theorem applyReset_wspace (h : s.cfg.Wf) : s.applyReset.wspace = s.cfg.C - 1 := by
  rw [wspace_of_clearing (State.applyReset_mode s), applyReset_unread h, applyReset_unread h]
  rfl

theorem applyReset_stat (h : s.cfg.Wf) :
    s.applyReset.stat = if s.cfg.dbuf then 0x00010070 else 0x00000070 := by
  simp only [State.stat, State.irq, applyReset_busy h, State.applyReset_cfg, State.applyReset_mode, State.applyReset_pmode,
    State.applyReset_act, State.applyReset_split, State.applyReset_tmode, State.applyReset_dstate,
    State.applyReset_donePend, State.applyReset_irqEn, State.applyReset_trigPend]
  cases s.cfg.dbuf <;> decide

/-- The output ports are the two halves of a PORT of 0 (10_state.md R54). -/
theorem applyReset_outputs (s : State) : s.applyReset.port0 = 0 ∧ s.applyReset.port1 = 0 := by
  rw [State.port0, State.port1, State.applyReset_port]
  decide

end ResetState

/-! ### The ticks of an idle block -/

theorem tick_of_idle {s : State} (hd : s.dstate = .idle) : tick s = s.pendEdge := by
  simp only [tick, hd]

/-- Ticks neither drive the ports nor signal a completion while no transfer is armed. -/
theorem ticks_port_donePend_of_idle {s : State} (hd : s.dstate = .idle) (n : Nat) :
    (ticks n s).port = s.port ∧ (ticks n s).donePend = s.donePend := by
  induction n with
  | zero => exact ⟨rfl, rfl⟩
  | succ n ih =>
    rw [ticks_succ, tick_of_idle (ticks_idle hd n)]
    exact ih

/-! ### The ways a transfer ends -/

/-- The tick that completes a transfer signals it and has driven every pair (42_dispatcher.md R247). -/
theorem tick_of_completes_signals {s : State} (h : s.Inv) (hc : s.Completes) :
    (tick s).donePend = true ∧ (tick s).pairIdx.toNat = s.cfg.regionPairs := by
  rw [tick_of_completes hc]
  obtain ⟨⟨hd, -⟩, hlast⟩ := hc
  exact ⟨rfl, (pairIdx_succ h hd).trans hlast⟩

/-- Of the edges of the dispatcher (42_dispatcher.md R240) only two lead to IDLE: a reset and the completion. -/
theorem reset_or_completes_of_idle {s u : State} {e : Event} (h : s.Inv) (hd : s.dstate ≠ .idle)
    (hp : perform e s = .next u) (hu : u.dstate = .idle) : e = .reset ∨ (e = .tick ∧ s.Completes) := by
  obtain ⟨hidle, -⟩ | ⟨-, hflight, -⟩ | ⟨hflight, -, he, hedge, hlast⟩ | ⟨he, -⟩ :=
    dispatcherStateEdges s u e h hp (by rw [hu]; exact hd.symm)
  · exact absurd hidle hd
  · cases hu.symm.trans hflight
  · exact .inr ⟨he, ⟨hflight, hedge⟩, hlast⟩
  · exact .inl he

/-! ### The statements, settled -/

/-- Settles O51: an idle block stays quiet (`ticks_idle`), and the edges to IDLE are `reset_or_completes_of_idle`. -/
theorem resetAbortsTransfer : Obligations.ResetAbortsTransfer := by
  intro s h hd
  refine ⟨s.applyReset, rfl, rfl, rfl, rfl, applyReset_elapsed_toNat h.cfgWf, applyReset_busy h.cfgWf, fun n => ?_,
    fun e u hp hu => ?_⟩
  · have hidle : s.applyReset.dstate = .idle := rfl
    obtain ⟨hport, hdone⟩ := ticks_port_donePend_of_idle hidle n
    exact ⟨hport, hdone, ticks_idle hidle n⟩
  · obtain hreset | ⟨rfl, hc⟩ := reset_or_completes_of_idle h hd hp hu
    · exact .inl hreset
    · cases hp
      exact .inr ⟨rfl, tick_of_completes_signals h hc⟩

/-- Settles O50: the storage by `zero_slotPos` and its like, the counts and the views by the lemmas on the reset state. -/
theorem resetValues : Obligations.ResetValues := by
  intro s h
  obtain ⟨hport0, hport1⟩ := applyReset_outputs s
  exact ⟨s.applyReset, rfl, fun i => ⟨zero_slotPos s.cfg i, zero_slotPat s.cfg i⟩, rfl, rfl, rfl, rfl, rfl, rfl, rfl,
    zero_inPatAt s.cfg, rfl, rfl, fun i => ⟨zero_stageAt s.cfg i, zero_activeAt s.cfg s.cfg.dbuf i⟩, rfl, rfl, rfl, rfl,
    applyReset_elapsed_toNat h, rfl, rfl, rfl, rfl, hport0, hport1, rfl, applyReset_unread h,
    applyReset_wspace h, applyReset_busy h, applyReset_stat h⟩

end Sys2Proof.Machine

/-! PROOFS. Encoding and decoding (30_encoding.md R110 to R118): each gives back what the other was given. -/

namespace Sys2Proof.Machine

/-- Settles O1: the fields of an encoded word are the operands (`opField_encodeCw` and its like), from which the opcode map gives
the command back. -/
theorem decodeEncodeRoundTrip : Obligations.DecodeEncodeRoundTrip := by
  intro A i hwf
  obtain ⟨-, hrsv, hside, hidx⟩ := Laws.EncodedShape.shape i
  refine decode_command_iff.mpr ⟨?_, hrsv, hside, hidx, fun hne => ?_⟩
  · rw [encode, opField_encodeCw, sideField_encodeCw, idxField_encodeCw]
    exact commandOf_opcode i
  · obtain ⟨a, ha⟩ := Option.ne_none_iff_exists'.mp hne
    rw [encode, idxField_encodeCw, ha]
    exact hwf a ha

/-- The S bit of a word is the bit of the side it selects. -/
theorem sideBit_sideField (cw : CmdWord) : sideBit (sideField cw) = cw.extractLsb' 9 1 := by
  have hbit : cw.extractLsb' 9 1 = BitVec.ofBool (cw.getLsbD 9) := by
    refine BitVec.eq_of_getLsbD_eq fun i hi => ?_
    obtain rfl : i = 0 := by omega
    simp
  rw [hbit, sideField]
  cases cw.getLsbD 9 <;> rfl

/-- An operand field holds the operand, or the value an unused field must have. -/
theorem getD_eq_of_forall {α : Type} {o : Option α} {x d : α} (hsome : ∀ y ∈ o, y = x) (hnone : o = none → x = d) :
    o.getD d = x := by
  cases o with
  | none => exact (hnone rfl).symm
  | some y => exact hsome y rfl

/-- Settles O2: the fields of an accepted word are those of its command, and a word is the layout of its fields. -/
theorem acceptedWordIsItsEncoding : Obligations.AcceptedWordIsItsEncoding := by
  intro A cw wd i hd
  obtain ⟨hc, hrsv, hside, hidx, hrange⟩ := decode_command_iff.mp hd
  obtain ⟨hop, hsideOf, hidxOf, hdata⟩ := commandOf_some hc
  refine ⟨?_, fun a ha => ?_, hdata⟩
  · calc encodeCw i = opField cw ++ cw.extractLsb' 9 1 ++ idxField cw ++ rsvField cw := by
          rw [encodeCw, hop, getD_eq_of_forall hsideOf hside, getD_eq_of_forall hidxOf hidx, sideBit_sideField, hrsv]
          rfl
      _ = cw := layout_of_fields cw
  · rw [hidxOf a ha]
    exact hrange (by rw [Option.mem_def.mp ha]; nofun)

/-- Settles O4: each word as its opcode, side and index fields. -/
theorem sampleWordsDecode : Obligations.SampleWordsDecode := by
  intro A wd hA
  refine ⟨decode_bare_word (op := 0x00) rfl rfl rfl, decode_bare_word (op := 0x01) rfl rfl rfl, ?_,
    decode_plain_word (op := 0x04) (side := .even) rfl rfl nofun rfl, ?_,
    decode_plain_word (op := 0x12) (side := .even) rfl rfl nofun rfl, decode_bare_word (op := 0x22) rfl rfl rfl,
    decode_bare_word (op := 0x30) rfl rfl rfl, decode_bare_word (op := 0x38) rfl rfl rfl⟩
  · exact (decode_indexed_word (op := 0x02) (side := .odd) (a := 21) rfl rfl (fun _ => rfl) nofun).1
      (show 21 < A by omega)
  · exact (decode_indexed_word (op := 0x06) (side := .odd) (a := 1) rfl rfl nofun nofun).1 (show 1 < A by omega)

end Sys2Proof.Machine

/-! PROOFS. What a command writes (10_state.md R58): the storage and the registers each command leaves, the one code other
than OK it can answer, then the statements on commands, events and steps that follow from it. -/

namespace Sys2Proof.Machine

/-! ### What a command writes and answers -/

/-- `Writes s i u`: in state s the command i leaves the elements of u, its answer apart. The conditions are those under which
the command does its work; `nothing` stands for a read, an ignored operand and a failure. -/
inductive Writes (s : State) : Instr → State → Prop
  | nothing {i : Instr} : Writes s i s
  | ldpos {pos : Word} : Writes s (.ldpos pos) { s with mem := s.mem.writeInPos pos }
  | ldpat {a : SlotIdx} {mask : Word} :
      Writes s (.ldpat a mask) { s with mem := s.mem.writeInPat a.toNat (maskOperand s.cfg.P mask) }
  | add (hspace : s.wspace ≠ 0) : Writes s .add s.pushEntry
  | next {side : Side} (hunread : s.unread side ≠ 0) : Writes s (.next side) (s.advanceRead side).loopReset
  | setmode {v : Word} {m : Mode} (hv : modeOperand v = some m) : Writes s (.setmode v) { s with mode := m }
  | clearall : Writes s .clearall { s.rewind with mem := s.mem.clearSlots s.cfg.A s.cfg.C, w := 1, loopcnt := 0 }
  | resetrd : Writes s .resetrd s.rewind
  | setact {side : Side} {v : Word} {b : Bool} (hv : bitOperand v = some b) :
      Writes s (.setact side v) { s with act := s.act.set side b }
  | setpmode {v : Word} {m : PrintMode} (hv : printModeOperand v = some m) : Writes s (.setpmode v) { s with pmode := m }
  | setsplit {v : Word} : Writes s (.setsplit v) { s with split := splitOperand v }
  | settmode {v : Word} {m : TimingMode} (hv : timingOperand v = some m) : Writes s (.settmode v) { s with tmode := m }
  | encoded {i : Instr} {pat : List Mask} (hi : i = .encode ∨ i = .encin) (hfree : s.encodeHazard = false) :
      Writes s i { s with mem := s.mem.writeStage (enc s.cfg pat s.split.count s.tmode.num) }
  | dispatch (hfree : s.busy = false) :
      Writes s .dispatch { s with mem := s.mem.copyToActive s.cfg.dbuf, trigPend := false, dstate := .arming }
  | ackdone : Writes s .ackdone { s with donePend := false }
  | setirq {v : Word} {b : Bool} (hv : bitOperand v = some b) : Writes s (.setirq v) { s with irqEn := b }

/-- The one code other than OK that a command can answer (60_exceptions.md R301). -/
def failCode : Instr → Option ResultCode
  | .add => some .full
  | .next _ | .pkapos _ | .pkapat _ _ => some .empty
  | .dispatch => some .busy
  | .rdstg _ | .rdact _ => some .illegal
  | .encode | .encin => some .hazard
  | .nop | .ldpos _ | .ldpat _ _ | .peekpos _ | .peekpat _ _ | .rdspc _ | .rdspcmin | .wrspc | .merged _ | .setmode _ | .getmode
  | .getloop | .clearall | .resetrd | .setact _ _ | .setpmode _ | .setsplit _ | .settmode _ | .isbusy | .ackdone | .setirq _
  | .rdstat | .rdxfer | .rdport | .rdtmr | .rdelap => none

/-- A command that succeeds answers OK over what it writes; one that fails answers its code with RDATA = 0 over the state as
it was. -/
def Completion (i : Instr) (s : State) : Prop :=
  ∃ u rc d, exec i s = .next (u.answer rc d) ∧ Writes s i u ∧ (rc ≠ .ok → failCode i = some rc ∧ u = s ∧ d = 0)

theorem completion_ok {i : Instr} {s u : State} {d : Word} (hr : exec i s = .next (u.answer .ok d)) (hw : Writes s i u) :
    Completion i s :=
  ⟨u, .ok, d, hr, hw, fun hne => absurd rfl hne⟩

theorem completion_fail {i : Instr} {s : State} {rc : ResultCode} (hr : exec i s = .next (s.answer rc 0))
    (hcode : failCode i = some rc) : Completion i s :=
  ⟨s, rc, 0, hr, .nothing, fun _ => ⟨hcode, rfl, rfl⟩⟩

/-- Every command completes, by what each can do. -/
theorem exec_completion (i : Instr) (s : State) : Completion i s := by
  cases i with
  | ldpos pos => exact completion_ok rfl .ldpos
  | ldpat a mask => exact completion_ok rfl .ldpat
  | add =>
    obtain ⟨-, hr⟩ | ⟨hne, hr⟩ := execAdd_cases s
    · exact completion_fail hr rfl
    · exact completion_ok hr (.add hne)
  | next side =>
    obtain ⟨-, hr⟩ | ⟨hne, hr⟩ := execNext_cases side s
    · exact completion_fail hr rfl
    · exact completion_ok hr (.next hne)
  | pkapos side =>
    obtain ⟨-, hr⟩ | ⟨-, hr⟩ := execPkapos_cases side s
    · exact completion_fail hr rfl
    · exact completion_ok hr .nothing
  | pkapat side a =>
    obtain ⟨-, hr⟩ | ⟨-, hr⟩ := execPkapat_cases side a s
    · exact completion_fail hr rfl
    · exact completion_ok hr .nothing
  | setmode v =>
    obtain ⟨m, hv, hr⟩ | ⟨-, hr⟩ := execSetmode_cases v s
    · exact completion_ok hr (.setmode hv)
    · exact completion_ok hr .nothing
  | clearall => exact completion_ok rfl .clearall
  | resetrd => exact completion_ok rfl .resetrd
  | setact side v =>
    obtain ⟨b, hv, hr⟩ | ⟨-, hr⟩ := execSetact_cases side v s
    · exact completion_ok hr (.setact hv)
    · exact completion_ok hr .nothing
  | setpmode v =>
    obtain ⟨m, hv, hr⟩ | ⟨-, hr⟩ := execSetpmode_cases v s
    · exact completion_ok hr (.setpmode hv)
    · exact completion_ok hr .nothing
  | setsplit v => exact completion_ok rfl .setsplit
  | settmode v =>
    obtain ⟨m, hv, hr⟩ | ⟨-, hr⟩ := execSettmode_cases v s
    · exact completion_ok hr (.settmode hv)
    · exact completion_ok hr .nothing
  | encode =>
    obtain ⟨-, hr⟩ | ⟨hfree, hr⟩ := encodeInto_cases s.mergedPattern s
    · exact completion_fail hr rfl
    · exact completion_ok hr (.encoded (.inl rfl) hfree)
  | encin =>
    obtain ⟨-, hr⟩ | ⟨hfree, hr⟩ := encodeInto_cases s.mem.inPat s
    · exact completion_fail hr rfl
    · exact completion_ok hr (.encoded (.inr rfl) hfree)
  | rdstg v =>
    obtain ⟨-, hr⟩ | ⟨-, hr⟩ := execRdstg_cases v s
    · exact completion_fail hr rfl
    · exact completion_ok hr .nothing
  | rdact v =>
    obtain ⟨-, hr⟩ | ⟨-, hr⟩ := execRdact_cases v s
    · exact completion_fail hr rfl
    · exact completion_ok hr .nothing
  | dispatch =>
    obtain ⟨-, hr⟩ | ⟨hfree, hr⟩ := execDispatch_cases s
    · exact completion_fail hr rfl
    · exact completion_ok hr (.dispatch hfree)
  | ackdone => exact completion_ok rfl .ackdone
  | setirq v =>
    obtain ⟨b, hv, hr⟩ | ⟨-, hr⟩ := execSetirq_cases v s
    · exact completion_ok hr (.setirq hv)
    · exact completion_ok hr .nothing
  | _ => exact completion_ok rfl .nothing

/-- The next state of a command is what it writes, under its answer. -/
theorem exec_writes {i : Instr} {s t : State} (h : exec i s = .next t) :
    ∃ u rc d, t = u.answer rc d ∧ Writes s i u ∧ (rc ≠ .ok → failCode i = some rc ∧ u = s ∧ d = 0) := by
  obtain ⟨u, rc, d, hr, hw, hfail⟩ := exec_completion i s
  cases h.symm.trans hr
  exact ⟨u, rc, d, rfl, hw, hfail⟩

/-! ### One memory write leaves the other spaces -/

section MemoryFrame

variable (m : Memory)

@[simp] theorem writeInPos_slots (x : Word) : (m.writeInPos x).slots = m.slots := rfl
@[simp] theorem writeInPos_inPat (x : Word) : (m.writeInPos x).inPat = m.inPat := rfl
@[simp] theorem writeInPos_stage (x : Word) : (m.writeInPos x).stage = m.stage := rfl
@[simp] theorem writeInPos_active (x : Word) (dbuf : Bool) : (m.writeInPos x).active dbuf = m.active dbuf := rfl

@[simp] theorem writeInPat_slots (a : Nat) (x : Mask) : (m.writeInPat a x).slots = m.slots := rfl
@[simp] theorem writeInPat_inPos (a : Nat) (x : Mask) : (m.writeInPat a x).inPos = m.inPos := rfl
@[simp] theorem writeInPat_stage (a : Nat) (x : Mask) : (m.writeInPat a x).stage = m.stage := rfl
@[simp] theorem writeInPat_active (a : Nat) (x : Mask) (dbuf : Bool) :
    (m.writeInPat a x).active dbuf = m.active dbuf := rfl

@[simp] theorem writeSlot_inPos (i : Nat) (e : Slot) : (m.writeSlot i e).inPos = m.inPos := rfl
@[simp] theorem writeSlot_inPat (i : Nat) (e : Slot) : (m.writeSlot i e).inPat = m.inPat := rfl
@[simp] theorem writeSlot_stage (i : Nat) (e : Slot) : (m.writeSlot i e).stage = m.stage := rfl
@[simp] theorem writeSlot_active (i : Nat) (e : Slot) (dbuf : Bool) : (m.writeSlot i e).active dbuf = m.active dbuf := rfl

@[simp] theorem clearSlots_inPos (A C : Nat) : (m.clearSlots A C).inPos = m.inPos := rfl
@[simp] theorem clearSlots_inPat (A C : Nat) : (m.clearSlots A C).inPat = m.inPat := rfl
@[simp] theorem clearSlots_stage (A C : Nat) : (m.clearSlots A C).stage = m.stage := rfl
@[simp] theorem clearSlots_active (A C : Nat) (dbuf : Bool) : (m.clearSlots A C).active dbuf = m.active dbuf := rfl

@[simp] theorem writeStage_slots (out : List Pair) : (m.writeStage out).slots = m.slots := rfl
@[simp] theorem writeStage_inPos (out : List Pair) : (m.writeStage out).inPos = m.inPos := rfl
@[simp] theorem writeStage_inPat (out : List Pair) : (m.writeStage out).inPat = m.inPat := rfl
@[simp] theorem writeStage_stage (out : List Pair) : (m.writeStage out).stage = out := rfl

/-- With DBUF = 1 the active region is storage of its own, which a write of the staging region leaves. -/
@[simp] theorem writeStage_active (out : List Pair) (dbuf : Bool) :
    (m.writeStage out).active dbuf = if dbuf then m.active dbuf else out := by
  cases dbuf <;> rfl

/-- With DBUF = 0 the two regions are one. -/
theorem dbuf_of_stage_ne_active {dbuf : Bool} (h : m.stage ≠ m.active dbuf) : dbuf = true := by
  cases dbuf with
  | true => rfl
  | false => exact absurd rfl h

end MemoryFrame

/-! ### The elements, one by one -/

/-- Only in LOOPING mode does a loop reset count. -/
theorem looping_of_loopReset_loopcnt_ne {s : State} (h : s.loopReset.loopcnt ≠ s.loopcnt) : s.mode = .looping := by
  obtain ⟨hsame, -⟩ | ⟨-, hm, -⟩ := loopReset_cases s
  · exact absurd (congrArg State.loopcnt hsame) h
  · exact hm

theorem side_eq_of_get_set_ne {α : Type} {x : Sides α} {side other : Side} {v : α}
    (h : (x.set side v).get other ≠ x.get other) : other = side :=
  not_not.mp fun hne => h (Sides.get_set_other x v hne)

/-- Settles O52: element by element for each command that writes. -/
theorem onlyListedCommandsWrite : Obligations.OnlyListedCommandsWrite := by
  intro i s t h
  obtain ⟨u, rc, d, rfl, hw, -⟩ := exec_writes h
  cases hw with
  | nothing => simp
  | ldpos => simp
  | ldpat => simp
  | add => simp
  | @next side =>
    have hcount := looping_of_loopReset_loopcnt_ne (s := s.advanceRead side)
    simpa using hcount
  | setmode => simp
  | clearall => simp
  | resetrd => simp
  | @setact side v b =>
    have hside : ∀ x, (s.act.set side b).get x ≠ s.act.get x → side = x := fun x hx => (side_eq_of_get_set_ne hx).symm
    simpa using hside
  | setpmode => simp
  | setsplit => simp
  | settmode => simp
  | encoded hi =>
    cases hdbuf : s.cfg.dbuf with
    | true => simp [hi, hdbuf]
    | false => simp [hi, hdbuf]
  | dispatch => simpa using dbuf_of_stage_ne_active s.mem
  | ackdone => simp
  | setirq => simp

/-! ### A transfer armed or in flight -/

/-- A command that works during a transfer is neither a DISPATCH nor, in a block with one region, an encode. -/
theorem exec_leaves_transfer {i : Instr} {s t : State} (hd : s.dstate ≠ .idle) (h : exec i s = .next t) :
    t.mem.active t.cfg.dbuf = s.mem.active s.cfg.dbuf ∧ t.dstate = s.dstate ∧ t.pairIdx = s.pairIdx ∧ t.tmr = s.tmr ∧
    t.trigPend = s.trigPend ∧ t.port = s.port ∧ t.elapsed = s.elapsed := by
  obtain ⟨u, rc, d, rfl, hw, -⟩ := exec_writes h
  cases hw with
  | dispatch hfree => exact absurd (idle_of_not_busy hfree) hd
  | encoded hi hfree =>
    have hdbuf : s.cfg.dbuf = true := by
      by_contra hno
      simp [(encodeHazard_iff s).mpr ⟨Bool.eq_false_iff.mpr hno, hd⟩] at hfree
    refine ⟨?_, rfl, rfl, rfl, rfl, rfl, rfl⟩
    simp [hdbuf]
  | next => simp
  | _ => exact ⟨rfl, rfl, rfl, rfl, rfl, rfl, rfl⟩

/-- Settles O56: an ILLEGAL answer writes nothing, a decoded command leaves the transfer (`exec_leaves_transfer`). -/
theorem commandsLeaveTransferAlone : Obligations.CommandsLeaveTransferAlone := by
  intro s t cw wd _ hd hp
  obtain ⟨-, -, i, -, -, hexec⟩ | ⟨-, -, -, -, -, rfl⟩ | ⟨he, -⟩ | ⟨he, -⟩ := perform_cases hp
  · exact exec_leaves_transfer hd hexec
  · exact ⟨rfl, rfl, rfl, rfl, rfl, rfl, rfl⟩
  · cases he
  · cases he

/-! ### The result codes (60_exceptions.md R301) -/

theorem failCode_eq_full_iff (i : Instr) : failCode i = some .full ↔ i = .add := by
  cases i <;> simp [failCode]

theorem failCode_eq_empty_iff (i : Instr) :
    failCode i = some .empty ↔ ∃ side x, i = .next side ∨ i = .pkapos side ∨ i = .pkapat side x := by
  cases i <;> simp [failCode]

theorem failCode_eq_busy_iff (i : Instr) : failCode i = some .busy ↔ i = .dispatch := by
  cases i <;> simp [failCode]

theorem failCode_eq_hazard_iff (i : Instr) : failCode i = some .hazard ↔ i = .encode ∨ i = .encin := by
  cases i <;> simp [failCode]

theorem resultCode_le (rc : ResultCode) : rc.code.toNat ≤ 5 := by
  cases rc <;> decide

theorem runCommand_of_command {cw : CmdWord} {wd : Word} {s : State} {i : Instr} (hd : decode s.cfg.A cw wd = .command i) :
    runCommand cw wd s = exec i s := by
  simp only [runCommand, hd]

theorem runCommand_of_illegal {cw : CmdWord} {wd : Word} {s : State} {e : DecodeError}
    (hd : decode s.cfg.A cw wd = .illegal e) : runCommand cw wd s = .next (s.answer .illegal 0) := by
  simp only [runCommand, hd, fail_eq]

/-- Settles O53: for a word that decodes, by the command's `failCode`; the range of a region read is the same in every state
of the block. -/
theorem failingCommandWritesNothing : Obligations.FailingCommandWritesNothing := by
  intro s cw wd
  cases hd : decode s.cfg.A cw wd with
  | illegal e =>
    exact ⟨s.answer .illegal 0, _, runCommand_of_illegal hd, rfl, fun _ => rfl, nofun, nofun, nofun,
      fun _ => .inl ⟨e, rfl⟩, nofun, fun _ u hcfg => runCommand_of_illegal (by rw [hcfg, hd]), resultCode_le _⟩
  | command i =>
    obtain ⟨u, rc, d, hr, -, hfail⟩ := exec_completion i s
    have hcode : ∀ {x : ResultCode}, x ≠ .ok → rc = x → failCode i = some x := by
      rintro x hx rfl
      exact (hfail hx).1
    have hillegal : rc = .illegal → ∃ v, s.cfg.regionPairs ≤ v.toNat ∧ (i = .rdstg v ∨ i = .rdact v) :=
      regionRead_of_exec_illegal hr rfl
    refine ⟨u.answer rc d, _, (runCommand_of_command hd).trans hr, rfl, fun hne => ?_, fun hrc => ?_, fun hrc => ?_,
      fun hrc => ?_, fun hrc => ?_, fun hrc => ?_, fun hrc v hcfg => ?_, resultCode_le _⟩
    · obtain ⟨-, rfl, rfl⟩ := hfail hne
      rfl
    · rw [(failCode_eq_full_iff i).mp (hcode nofun hrc)]
    · obtain ⟨side, x, hi⟩ := (failCode_eq_empty_iff i).mp (hcode nofun hrc)
      exact ⟨side, x, by simpa using hi⟩
    · rw [(failCode_eq_busy_iff i).mp (hcode nofun hrc)]
    · obtain ⟨v, -, hi⟩ := hillegal hrc
      obtain rfl := regionRead_operand hd hi
      exact .inr (by simpa using hi)
    · simpa using (failCode_eq_hazard_iff i).mp (hcode nofun hrc)
    · obtain ⟨x, hx, hi⟩ := hillegal hrc
      exact (runCommand_of_command (hcfg ▸ hd)).trans (exec_regionRead_illegal (hcfg ▸ hx) hi)

/-! ### The reading commands (20_memory.md R89) -/

/-- Settles O54: no read asks for the answer that stands on the port, so the condition of one that can fail is as it was. -/
theorem readsWriteNothingAndRepeat : Obligations.ReadsWriteNothingAndRepeat := by
  rintro s i (hi | ⟨side, rfl | rfl | rfl⟩ | ⟨side, a, rfl | rfl⟩ | ⟨a, rfl⟩ | ⟨v, rfl | rfl⟩)
  · fin_cases hi <;> exact ⟨_, _, rfl, rfl⟩
  · exact ⟨_, _, rfl, rfl⟩
  · by_cases hz : s.unread side = 0
    · exact ⟨_, _, if_pos hz, if_pos hz⟩
    · exact ⟨_, _, if_neg hz, if_neg hz⟩
  · exact ⟨_, _, rfl, rfl⟩
  · exact ⟨_, _, rfl, rfl⟩
  · by_cases hz : s.unread side = 0
    · exact ⟨_, _, if_pos hz, if_pos hz⟩
    · exact ⟨_, _, if_neg hz, if_neg hz⟩
  · exact ⟨_, _, rfl, rfl⟩
  · by_cases hv : s.cfg.regionPairs ≤ v.toNat
    · exact ⟨_, _, if_pos hv, if_pos hv⟩
    · exact ⟨_, _, if_neg hv, if_neg hv⟩
  · by_cases hv : s.cfg.regionPairs ≤ v.toNat
    · exact ⟨_, _, if_pos hv, if_pos hv⟩
    · exact ⟨_, _, if_neg hv, if_neg hv⟩

end Sys2Proof.Machine

/-! PROOFS. The steps of the block: what a step performs, and the invariant that every step keeps (00_scope.md R7, 10_state.md
R33 to R53). -/

namespace Sys2Proof.Machine

/-! ### The step -/

theorem step_of_event {s : State} {e : Event} {rest : List Event} (h : s.cfg.Wf) (hi : s.inputs = e :: rest) :
    step s = perform e { s with inputs := rest } := by
  simp only [step, if_pos h, hi]

theorem step_of_no_event {s : State} (h : s.cfg.Wf) (hi : s.inputs = []) : step s = .next s := by
  simp only [step, if_pos h, hi]

/-- Every event answers a next state, of the same block (60_exceptions.md R300). -/
theorem perform_next (e : Event) (s : State) : ∃ t, perform e s = .next t ∧ t.cfg = s.cfg := by
  cases e with
  | command cw wd =>
    obtain ⟨i, -, hrun⟩ | ⟨err, -, hrun⟩ := runCommand_cases cw wd s
    · obtain ⟨t, rc, d, hr, -⟩ := exec_answers i s
      obtain ⟨-, hcfg, -⟩ := exec_frame hr
      exact ⟨_, hrun.trans hr, hcfg⟩
    · exact ⟨_, hrun, rfl⟩
  | tick => exact ⟨_, rfl, tick_cfg s⟩
  | reset => exact ⟨_, rfl, rfl⟩

/-- Settles O5: the step performs the command, and the port runs what it decodes to. -/
theorem stepRunsTheDecodedCommand : Obligations.StepRunsTheDecodedCommand := by
  intro s cw wd rest i h hi hd
  exact (step_of_event h hi).trans (runCommand_of_command (s := { s with inputs := rest }) hd)

/-- Settles O6: by the next event. -/
theorem stepPerformsTicksAndResets : Obligations.StepPerformsTicksAndResets :=
  fun _ _ h => ⟨step_of_event h, step_of_event h, step_of_no_event h⟩

/-- Settles O7: a configuration that breaks a check is not well formed, which power-up and the step both ask first. -/
theorem illFormedConfigurationRefused : Obligations.IllFormedConfigurationRefused := by
  intro s hbreak
  have hno : ¬ s.cfg.Wf := by
    rintro ⟨hsizes, hregion, htimer, hsettle, hsplit, hmap⟩
    obtain h | h | h | h | h | h := hbreak
    · exact h hsizes
    · exact h hregion
    · exact h htimer
    · exact h hsettle
    · exact h hsplit
    · exact h hmap
  exact ⟨if_neg hno, if_neg hno⟩

/-- Settles O8: by whether an event is scheduled; every event answers a next state (`perform_next`). -/
theorem noStepTraps : Obligations.NoStepTraps := by
  intro s h
  cases hi : s.inputs with
  | nil => exact ⟨s, step_of_no_event h hi, rfl⟩
  | cons e rest =>
    obtain ⟨t, hp, hcfg⟩ := perform_next e { s with inputs := rest }
    exact ⟨t, (step_of_event h hi).trans hp, hcfg⟩

/-! ### The invariant -/

theorem pushEntry_inv {s : State} (h : s.Inv) : s.pushEntry.Inv := by
  obtain ⟨-, -, hpat, -⟩ := h.memWf
  exact { h with memWf := writeSlot_wf s.w.toNat hpat h.memWf, wLt := advance_lt s.w h.cPos h.cLe }

theorem loopReset_inv {s : State} (h : s.Inv) : s.loopReset.Inv := by
  obtain ⟨hsame, -⟩ | ⟨hreset, -⟩ := loopReset_cases s
  · rw [hsame]
    exact h
  · rw [hreset]
    exact { rewind_inv h with }

/-- What a command writes stays in the ranges of the elements. -/
theorem writes_inv {i : Instr} {s u : State} (h : s.Inv) (hw : Writes s i u) : u.Inv := by
  cases hw with
  | nothing => exact h
  | ldpos => exact { h with memWf := writeInPos_wf _ h.memWf }
  | ldpat => exact { h with memWf := writeInPat_wf _ (maskOperand_fits h.pLe _) h.memWf }
  | add => exact pushEntry_inv h
  | next => exact loopReset_inv (advanceRead_inv h _)
  | clearall => exact { rewind_inv h with memWf := clearSlots_wf h.memWf, wLt := two_le_slots_of_wf h.cfgWf }
  | resetrd => exact rewind_inv h
  | encoded => exact { h with memWf := writeStage_wf (enc_length h.cfgWf _ (split_count_le _) (timing_num_le _)) h.memWf }
  | dispatch hfree =>
    have hsettled : s.cfg.settle < s.elapsed.toNat := by
      by_contra hle
      simp [(busy_iff s).mpr (.inr (not_lt.mp hle))] at hfree
    exact { h with memWf := copyToActive_wf h.memWf, pairLt := nofun, settled := fun _ => hsettled }
  | _ => exact { h with }

theorem exec_inv {i : Instr} {s t : State} (h : s.Inv) (hr : exec i s = .next t) : t.Inv := by
  obtain ⟨u, rc, d, rfl, hw, hfail⟩ := exec_writes hr
  refine inv_answer (writes_inv h hw) fun hne => ?_
  obtain ⟨-, -, hzero⟩ := hfail hne
  exact hzero

theorem perform_inv {e : Event} {s t : State} (h : s.Inv) (hp : perform e s = .next t) : t.Inv := by
  obtain ⟨-, -, i, -, -, hexec⟩ | ⟨-, -, -, -, -, rfl⟩ | ⟨-, rfl⟩ | ⟨-, rfl⟩ := perform_cases hp
  · exact exec_inv h hexec
  · exact inv_answer h fun _ => rfl
  · exact tick_inv h
  · exact applyReset_inv h.cfgWf

/-- Settles O48: the reset state is what a reset makes of itself. -/
theorem resetMeetsInvariant : Obligations.ResetMeetsInvariant :=
  fun c h => applyReset_inv (s := State.resetWith c) h

/-- Settles O47: the invariant does not look at the schedule, and every event keeps it (`perform_inv`). -/
theorem stepKeepsInvariant : Obligations.StepKeepsInvariant := by
  intro s t h hstep
  obtain ⟨-, ⟨-, rfl⟩ | ⟨e, rest, -, hp⟩⟩ := step_cases hstep
  · exact h
  · exact perform_inv (inv_inputs h rest) hp

end Sys2Proof.Machine

/-! PROOFS. The ring under ADD (40_fifo.md R147, R166): what it leaves unread in CLEARING mode and what it overwrites in the other
modes. -/

namespace Sys2Proof.Machine

theorem execAdd_of_space {s : State} (h : s.wspace ≠ 0) :
    exec .add s = .next (s.pushEntry.answer .ok (countWord s.pushEntry.wspace)) := by
  obtain ⟨hz, -⟩ | ⟨-, hr⟩ := execAdd_cases s
  · exact absurd hz h
  · exact hr

theorem pushEntry_w_toNat {s : State} (h : s.Inv) : s.pushEntry.w.toNat = (s.w.toNat + 1) % s.cfg.C :=
  advance_toNat s.w h.cPos h.cLe

/-- ADD gives a side that is not full one unread entry more. -/
theorem unread_pushEntry {s : State} (h : s.Inv) {side : Side} (hroom : s.unread side ≤ s.cfg.C - 2) :
    s.pushEntry.unread side = s.unread side + 1 := by
  have hw := h.wLt
  have hr := h.curLt side
  have hC := two_le_slots_of_wf h.cfgWf
  rw [unread_eq h] at hroom
  rw [unread_eq (pushEntry_inv h), unread_eq h, pushEntry_w_toNat h, succ_mod_eq hw]
  simp only [State.pushEntry_r, State.pushEntry_cfg]
  split at hroom <;> split <;> split <;> omega

/-- The slots from the current one through the last unread one stop short of W: W is less than a whole ring further on. -/
theorem slot_ne_write {s : State} (h : s.Inv) {side : Side} {k : Nat} (hroom : s.unread side ≤ s.cfg.C - 2)
    (hk : k ≤ s.unread side) : ((s.r.get side).toNat + k) % s.cfg.C ≠ s.w.toNat := by
  intro heq
  have hC := two_le_slots_of_wf h.cfgWf
  have hmod : (s.r.get side).toNat + k ≡ (s.r.get side).toNat + 1 + s.unread side [MOD s.cfg.C] :=
    heq.trans (unread_add_mod h side).symm
  have hle := Nat.le_of_dvd (by omega) ((Nat.modEq_iff_dvd' (by omega)).mp hmod)
  omega

/-- Settles O24: ADD writes slot W alone, which `slot_ne_write` keeps apart from the slots a side is on or has not read. -/
theorem clearingAddKeepsUnreadEntries : Obligations.ClearingAddKeepsUnreadEntries := by
  intro s t h hm hroom hadd side k hk
  have hspace : s.wspace ≠ 0 := by
    have hodd := hroom .odd
    have heven := hroom .even
    have hC := two_le_slots_of_wf h.cfgWf
    rw [wspace_of_clearing hm]
    omega
  cases hadd.symm.trans (execAdd_of_space hspace)
  exact ⟨slotAt_writeSlot_other s.mem _ (slot_ne_write h (hroom side) hk), unread_pushEntry h (hroom side)⟩

/-- Settles O25: W is the current slot of a full side, and one step on the side is empty. -/
theorem staticAddOverwritesFullSide : Obligations.StaticAddOverwritesFullSide := by
  intro s side h hm hfull
  have hspace := wspace_pos_of_not_clearing h hm
  have hempty : s.pushEntry.unread side = 0 := by
    rw [unread_eq_zero_iff (pushEntry_inv h), pushEntry_w_toNat h, hfull]
    rfl
  obtain ⟨hslots, -⟩ := h.memWf
  refine ⟨(unread_eq_full_iff h side).mpr hfull, hspace, _, execAdd_of_space (Nat.one_le_iff_ne_zero.mp hspace),
    ⟨_, rfl⟩, hempty, ?_⟩
  show (s.mem.writeSlot s.w.toNat s.mem.operandEntry).slotAt (s.r.get side).toNat = s.mem.operandEntry
  rw [← hfull]
  exact slotAt_writeSlot_same _ (h.wLt.trans_eq hslots.symm)

end Sys2Proof.Machine

/-! PROOFS. The safety of the burst encoding (41_encoder.md R208): the phase masks of a split, the lines a pair energizes, the
pairs of a region, then the statements. -/

namespace Sys2Proof.Machine

/-! ### The phase masks of a split (00_scope.md R6 check 5) -/

theorem lowMask_getLsbD {P : Nat} (h : P ≤ 16) (p : Nat) : (lowMask P).getLsbD p = decide (p < P) := by
  rw [BitVec.getLsbD, lowMask_toNat h, Nat.testBit_two_pow_sub_one]

/-- The bits of a union of masks. -/
theorem foldl_or_getLsbD (l : List Mask) (acc : Mask) (p : Nat) :
    (l.foldl (fun x y => x ||| y) acc).getLsbD p = true ↔ acc.getLsbD p = true ∨ ∃ m ∈ l, m.getLsbD p = true := by
  induction l generalizing acc with
  | nil => simp
  | cons m l ih => simp [ih, or_assoc]

section SplitRow

variable {c : Config} {k : Nat}

theorem splitRowOk_of_wf (h : c.Wf) (hpos : 1 ≤ k) (hk : k ≤ 4) : c.SplitRowOk k := by
  obtain ⟨-, -, -, -, ⟨-, hrows⟩, -⟩ := h
  exact hrows k (by interval_cases k <;> simp)

theorem splitMask_mem (h : c.SplitRowOk k) {j : Nat} (hj : j < k) : c.splitMask k j ∈ c.splitRow k := by
  obtain ⟨hlen, -⟩ := h
  exact List.mem_of_getElem? (getElem?_eq_some_getD 0 (hj.trans_eq hlen.symm))

theorem exists_splitMask_of_mem (h : c.SplitRowOk k) {m : Mask} (hm : m ∈ c.splitRow k) :
    ∃ j, j < k ∧ c.splitMask k j = m := by
  obtain ⟨hlen, -⟩ := h
  obtain ⟨j, hj, rfl⟩ := List.getElem_of_mem hm
  exact ⟨j, hj.trans_eq hlen, by simp [Config.splitMask, List.getD_eq_getElem?_getD, hj]⟩

theorem splitMask_disjoint (h : c.SplitRowOk k) {i j : Nat} (hi : i < k) (hj : j < k) (hne : i ≠ j) :
    c.splitMask k i &&& c.splitMask k j = 0 := by
  obtain ⟨hlen, hdisjoint, -⟩ := h
  have hsymm : ∀ {x y : Mask}, x &&& y = 0 → y &&& x = 0 := fun hxy => by rwa [BitVec.and_comm]
  have hget : ∀ {n : Nat} (hn : n < k), c.splitMask k n = (c.splitRow k)[n] := fun hn => by
    simp [Config.splitMask, List.getD_eq_getElem?_getD, hlen, hn]
  rw [List.pairwise_iff_getElem] at hdisjoint
  rw [hget hi, hget hj]
  obtain hlt | hlt := Nat.lt_or_gt_of_ne hne
  · exact hdisjoint i j _ _ hlt
  · exact hsymm (hdisjoint j i _ _ hlt)

/-- Every primitive line fires in one of the phases. -/
theorem exists_phase_of_line (hc : c.Wf) (h : c.SplitRowOk k) {p : Nat} (hp : p < c.P) :
    ∃ j, j < k ∧ (c.splitMask k j).getLsbD p = true := by
  obtain ⟨⟨-, -, -, hP, -⟩, -⟩ := hc
  have hunion : ((c.splitRow k).foldl (fun x y => x ||| y) 0).getLsbD p = true := by
    obtain ⟨-, -, hall, -⟩ := h
    rw [hall, lowMask_getLsbD (by omega), decide_eq_true hp]
  obtain hzero | ⟨m, hm, hbit⟩ := (foldl_or_getLsbD _ _ _).mp hunion
  · simp at hzero
  · obtain ⟨j, hj, rfl⟩ := exists_splitMask_of_mem h hm
    exact ⟨j, hj, hbit⟩

theorem popcount_splitMask_le (h : c.SplitRowOk k) {j : Nat} (hj : j < k) :
    popcount (c.splitMask k j) ≤ (c.P + k - 1) / k := by
  have hmem := splitMask_mem h hj
  obtain ⟨-, -, -, hcount⟩ := h
  exact of_decide_eq_true (List.all_eq_true.mp hcount _ hmem)

end SplitRow

/-- Settles O32: check 5 of R6, cut down to the bits of the word. -/
theorem phasesPartitionTheWord : Obligations.PhasesPartitionTheWord := by
  intro c k word hc hpos hk hword
  have hrow := splitRowOk_of_wf hc hpos hk
  refine ⟨fun i j hi hj hne => ?_, fun p => ⟨fun hp => ?_, ?_⟩⟩
  · calc (word &&& c.splitMask k i) &&& (word &&& c.splitMask k j)
        = (word &&& word) &&& (c.splitMask k i &&& c.splitMask k j) := by ac_rfl
      _ = 0 := by rw [splitMask_disjoint hrow hi hj hne]; exact BitVec.and_zero
  · have hline : p < c.P := by
      by_contra hge
      simp [getLsbD_of_fits hword (not_lt.mp hge)] at hp
    obtain ⟨j, hj, hbit⟩ := exists_phase_of_line hc hrow hline
    exact ⟨j, hj, by rw [BitVec.getLsbD_and, hp, hbit, Bool.and_self]⟩
  · rintro ⟨j, -, hbit⟩
    rw [BitVec.getLsbD_and, Bool.and_eq_true] at hbit
    exact hbit.1

/-! ### The lines a pair energizes -/

theorem popcount_and_le (x y : Mask) : popcount (x &&& y) ≤ popcount y := by
  refine List.countP_mono_left fun p _ hp => ?_
  rw [BitVec.getLsbD_and, Bool.and_eq_true] at hp
  exact hp.2

/-- A pair energizes the lines of its mask that the head has. -/
theorem primCount_pw {c : Config} (h : c.PortMapOk) (m : Mask) (ac pc : Bool) :
    primCount c (pw c m ac pc) = (List.range c.P).countP fun p => m.getLsbD p :=
  List.countP_congr fun p hp => by rw [pw_prim h m ac pc (List.mem_range.mp hp)]

theorem portMapOk_of_wf {c : Config} (h : c.Wf) : c.PortMapOk := by
  obtain ⟨-, -, -, -, -, hmap⟩ := h
  exact hmap

theorem primCount_pw_le {c : Config} (h : c.Wf) (m : Mask) (ac pc : Bool) : primCount c (pw c m ac pc) ≤ popcount m := by
  rw [primCount_pw (portMapOk_of_wf h)]
  obtain ⟨⟨-, -, -, hP, -⟩, -⟩ := h
  exact (List.range_sublist.mpr (by omega)).countP_le

theorem primCount_pw_zero {c : Config} (h : c.PortMapOk) (ac pc : Bool) : primCount c (pw c 0 ac pc) = 0 := by
  rw [primCount_pw h]
  simp

/-! ### The pairs of an encoding (41_encoder.md R208 items 3 to 5) -/

theorem safePair_zero (c : Config) : SafePair c 0 := by
  intro h
  simp at h

/-- Without the address clock a pair is safe; the address clock comes with no line and no primitive clock. -/
theorem safePair_pw {c : Config} (h : c.PortMapOk) {m : Mask} {ac pc : Bool} (hac : ac = true → m = 0 ∧ pc = false) :
    SafePair c (pw c m ac pc) := by
  rw [SafePair, pw_aclk h]
  intro hclk
  obtain ⟨rfl, rfl⟩ := hac hclk
  exact ⟨primCount_pw_zero h _ _, pw_pclk h _ _ _⟩

theorem enc_pair_safe {c : Config} (hc : c.Wf) {pat : List Mask} {k t : Nat} (hpos : 1 ≤ k) (hk : k ≤ 4) {w : Pair}
    (hw : w ∈ enc c pat k t) : primCount c w ≤ (c.P + k - 1) / k ∧ SafePair c w := by
  have hmap := portMapOk_of_wf hc
  have hidle : ∀ ac, primCount c (pw c 0 ac false) ≤ (c.P + k - 1) / k ∧ SafePair c (pw c 0 ac false) := fun ac =>
    ⟨(primCount_pw_zero hmap ac false).trans_le (Nat.zero_le _), safePair_pw hmap fun _ => ⟨rfl, rfl⟩⟩
  have hdata : ∀ a j pc, j < k → primCount c (pw c (pat.getD a 0 &&& c.splitMask k j) false pc) ≤ (c.P + k - 1) / k ∧
      SafePair c (pw c (pat.getD a 0 &&& c.splitMask k j) false pc) := fun a j pc hj =>
    ⟨(primCount_pw_le hc _ _ _).trans
      ((popcount_and_le _ _).trans (popcount_splitMask_le (splitRowOk_of_wf hc hpos hk) hj)), safePair_pw hmap nofun⟩
  obtain rfl | rfl | rfl | ⟨a, j, hj, rfl | rfl⟩ := mem_enc hw
  · rw [← pw_zero c]
    exact hidle false
  · exact hidle true
  · exact hidle false
  · exact hdata a j false hj
  · exact hdata a j true hj

/-- The content ends in the idle pair of the last phase of the last slot. -/
theorem enc_content_last {c : Config} (hc : c.Wf) (pat : List Mask) {k t : Nat} (hpos : 1 ≤ k) (ht : t ≤ 1) :
    (enc c pat k t)[contentLength c k t - 1]? = some 0 := by
  obtain ⟨⟨hA, -⟩, -⟩ := hc
  obtain ⟨a, hlast⟩ : ∃ a, c.A = a + 1 := ⟨c.A - 1, by omega⟩
  obtain ⟨j, rfl⟩ : ∃ j, k = j + 1 := ⟨k - 1, by omega⟩
  have hidx : contentLength c (j + 1) t - 1 = a * (2 + (j + 1) * (3 + t)) + 2 + j * (3 + t) + (2 + t) := by
    rw [contentLength, hlast, Nat.succ_mul a, Nat.succ_mul j]
    omega
  rw [hidx, enc_phase ht (by omega) (Nat.lt_succ_self j) (by omega), phasePairs_last c _ ht, pw_zero]

/-- The region ends in the last pair of the content or in the backfill. -/
theorem enc_region_last {c : Config} (hc : c.Wf) (pat : List Mask) {k t : Nat} (hpos : 1 ≤ k) (hk : k ≤ 4) (ht : t ≤ 1) :
    (enc c pat k t)[c.regionPairs - 1]? = some 0 := by
  have hle := contentLength_le hc hk ht
  have hlast := enc_content_last hc pat hpos ht
  obtain ⟨⟨hA, -⟩, ⟨hregion, -⟩, -⟩ := hc
  obtain heq | hlt := Nat.eq_or_lt_of_le hle
  · rwa [← heq]
  · exact enc_backfill ht (by omega) (by omega)

/-- Settles O33: pair by pair (`enc_pair_safe`), and the two ends. -/
theorem encodedPairsAreSafe : Obligations.EncodedPairsAreSafe :=
  fun _ pat _ _ hc hpos hk ht =>
    ⟨fun _ hw => enc_pair_safe hc hpos hk hw, enc_content_last hc pat hpos ht, enc_region_last hc pat hpos hk ht⟩

end Sys2Proof.Machine

/-! PROOFS. Drive safety (41_encoder.md R208, 42_dispatcher.md R246, R247): what every event leaves in the regions and on the
ports, then the statement. -/

namespace Sys2Proof.Machine

/-! ### A region to drive from -/

/-- A region whose pairs are safe and whose last pair is 0. -/
def RegionSafe (c : Config) (region : List Pair) : Prop :=
  (∀ w ∈ region, SafePair c w) ∧ region.getD (c.regionPairs - 1) 0 = 0

theorem driveSafe_iff (s : State) :
    s.DriveSafe ↔ RegionSafe s.cfg s.mem.stage ∧ RegionSafe s.cfg (s.mem.active s.cfg.dbuf) ∧ SafePair s.cfg s.port :=
  ⟨fun ⟨hs, ha, hp, hse, hae⟩ => ⟨⟨hs, hse⟩, ⟨ha, hae⟩, hp⟩, fun ⟨⟨hs, hse⟩, ⟨ha, hae⟩, hp⟩ => ⟨hs, ha, hp, hse, hae⟩⟩

theorem regionSafe_zero (c : Config) (n : Nat) : RegionSafe c (List.replicate n 0) := by
  refine ⟨fun w hw => ?_, getD_replicate_default _ _ _⟩
  rw [List.eq_of_mem_replicate hw]
  exact safePair_zero c

theorem regionSafe_enc {c : Config} (hc : c.Wf) (pat : List Mask) {k t : Nat} (hpos : 1 ≤ k) (hk : k ≤ 4) (ht : t ≤ 1) :
    RegionSafe c (enc c pat k t) := by
  refine ⟨fun w hw => (enc_pair_safe hc hpos hk hw).2, ?_⟩
  rw [List.getD_eq_getElem?_getD, enc_region_last hc pat hpos hk ht]
  rfl

/-- Whatever the index, what a safe region drives is safe. -/
theorem safePair_of_regionSafe {c : Config} {region : List Pair} (h : RegionSafe c region) (i : Nat) :
    SafePair c (region.getD i 0) := by
  obtain hmem | hzero := getD_mem_or_default region i 0
  · exact h.1 _ hmem
  · rw [hzero]
    exact safePair_zero c

/-! ### What the events leave -/

theorem resetWith_driveSafe (c : Config) : (State.resetWith c).DriveSafe := by
  refine (driveSafe_iff _).mpr ⟨regionSafe_zero c _, ?_, safePair_zero c⟩
  cases hdbuf : c.dbuf with
  | true => simpa [State.resetWith, Memory.active, Memory.zero, hdbuf] using regionSafe_zero c _
  | false => simpa [State.resetWith, Memory.active, Memory.zero, hdbuf] using regionSafe_zero c _

/-- A command stages nothing or an encoding, and the active region keeps its pairs or takes those of the staging region. -/
theorem writes_regions {i : Instr} {s u : State} (hw : Writes s i u) :
    (u.mem.stage = s.mem.stage ∨ ∃ pat, u.mem.stage = enc s.cfg pat s.split.count s.tmode.num) ∧
    (u.mem.active u.cfg.dbuf = s.mem.active s.cfg.dbuf ∨ u.mem.active u.cfg.dbuf = u.mem.stage) := by
  cases hw with
  | @encoded i pat =>
    refine ⟨.inr ⟨pat, rfl⟩, ?_⟩
    cases hdbuf : s.cfg.dbuf with
    | true => exact .inl rfl
    | false => exact .inr rfl
  | dispatch => simp
  | next => simp
  | _ => exact ⟨.inl rfl, .inl rfl⟩

theorem exec_driveSafe {i : Instr} {s t : State} (h : s.Inv) (hsafe : s.DriveSafe) (hr : exec i s = .next t) :
    t.DriveSafe := by
  obtain ⟨hstage, hactive, hport⟩ := (driveSafe_iff s).mp hsafe
  obtain ⟨-, hcfg, hkeep, -⟩ := exec_frame hr
  obtain ⟨u, rc, d, rfl, hw, -⟩ := exec_writes hr
  obtain ⟨hstaged, hactivated⟩ := writes_regions hw
  have hstage' : RegionSafe s.cfg u.mem.stage := by
    obtain hsame | ⟨pat, henc⟩ := hstaged
    · rwa [hsame]
    · rw [henc]
      exact regionSafe_enc h.cfgWf pat (split_count_pos _) (split_count_le _) (timing_num_le _)
  have hactive' : RegionSafe s.cfg (u.mem.active u.cfg.dbuf) := by
    obtain hsame | hcopy := hactivated
    · rwa [hsame]
    · rwa [hcopy]
  rw [driveSafe_iff, hcfg, hkeep]
  exact ⟨hstage', hcfg ▸ hactive', hport⟩

theorem tick_driveSafe {s : State} (h : s.Inv) (hsafe : s.DriveSafe) : (tick s).DriveSafe := by
  obtain ⟨hstage, hactive, hport⟩ := (driveSafe_iff s).mp hsafe
  rw [driveSafe_iff, tick_cfg, tick_mem, tick_port h]
  refine ⟨hstage, hactive, ?_⟩
  by_cases hm : s.Moves
  · rw [if_pos hm]
    exact safePair_of_regionSafe hactive _
  · rwa [if_neg hm]

theorem perform_driveSafe {e : Event} {s t : State} (h : s.Inv) (hsafe : s.DriveSafe) (hp : perform e s = .next t) :
    t.DriveSafe := by
  obtain ⟨-, -, i, -, -, hexec⟩ | ⟨-, -, -, -, -, rfl⟩ | ⟨-, rfl⟩ | ⟨-, rfl⟩ := perform_cases hp
  · exact exec_driveSafe h hsafe hexec
  · exact { hsafe with }
  · exact tick_driveSafe h hsafe
  · exact { resetWith_driveSafe s.cfg with }

/-! ### The completion -/

/-- No command signals a completion. -/
theorem exec_donePend {i : Instr} {s t : State} (hr : exec i s = .next t) (hclear : s.donePend = false) :
    t.donePend = false := by
  obtain ⟨u, rc, d, rfl, hw, -⟩ := exec_writes hr
  cases hw with
  | next => simpa using hclear
  | ackdone => rfl
  | _ => exact hclear

theorem tick_donePend {s : State} (h : s.Inv) : (tick s).donePend = if s.Completes then true else s.donePend :=
  congrArg State.donePend (tickInOrder s h)

/-- The one event that signals a completion is the tick that drives the last pair (42_dispatcher.md R247). -/
theorem completes_of_signal {e : Event} {s t : State} (h : s.Inv) (hp : perform e s = .next t) (hclear : s.donePend = false)
    (hset : t.donePend = true) : t = tick s ∧ s.Completes := by
  obtain ⟨-, -, i, -, -, hexec⟩ | ⟨-, -, -, -, -, rfl⟩ | ⟨-, rfl⟩ | ⟨-, rfl⟩ := perform_cases hp
  · cases hset.symm.trans (exec_donePend hexec hclear)
  · cases hset.symm.trans hclear
  · refine ⟨rfl, ?_⟩
    by_contra hc
    rw [tick_donePend h, if_neg hc, hclear] at hset
    cases hset
  · cases hset

/-- The last pair of a safe region is 0, so a completion leaves both ports at 0. -/
theorem port_of_completes {s : State} (h : s.Inv) (hsafe : s.DriveSafe) (hc : s.Completes) : (tick s).port = 0 := by
  have hlast : s.pairIdx.toNat = s.cfg.regionPairs - 1 := by
    obtain ⟨-, hlast⟩ := hc
    omega
  rw [tick_port h, if_pos hc.1, hlast]
  exact hsafe.activeEnd

/-- Settles O49: every event keeps drive safety (`perform_driveSafe`), and only the completing tick signals. -/
theorem stepKeepsDriveSafe : Obligations.StepKeepsDriveSafe := by
  refine ⟨fun c _ => resetWith_driveSafe c, fun s t h hsafe hstep => ?_⟩
  obtain ⟨-, ⟨-, rfl⟩ | ⟨e, rest, -, hp⟩⟩ := step_cases hstep
  · exact ⟨hsafe, fun hclear hset => absurd (hset.symm.trans hclear) (by decide)⟩
  · have h' := inv_inputs h rest
    have hsafe' : State.DriveSafe { s with inputs := rest } := { hsafe with }
    refine ⟨perform_driveSafe h' hsafe' hp, fun hclear hset => ?_⟩
    obtain ⟨rfl, hc⟩ := completes_of_signal h' hp hclear hset
    exact port_of_completes h' hsafe' hc

end Sys2Proof.Machine

/-! PROOFS. The timing of a transfer (42_dispatcher.md R262, 70_reset_and_hazards.md R344): the timer and TRIG_PEND in one tick,
the arming delay, the periods of a transfer and the busy window, then the statements. -/

namespace Sys2Proof.Machine

/-- In flight the timer runs on, whatever the tick drives, and TRIG_PEND stays. -/
theorem tick_of_inflight_counts {s : State} (hd : s.dstate = .inflight) :
    (tick s).tmr = s.tmrNext ∧ (tick s).trigPend = s.trigPend := by
  by_cases hedge : s.tmr.toNat = s.cfg.tmrTop
  · by_cases hc : s.Completes
    · rw [tick_of_completes hc]
      exact ⟨rfl, rfl⟩
    · rw [tick_of_moves ⟨hd, hedge⟩ hc]
      exact ⟨rfl, rfl⟩
  · rw [tick_of_no_edge hd hedge]
    exact ⟨rfl, rfl⟩

/-- Settles O43: the arming tick, a tick in flight, any other tick. -/
theorem timerAndPendingTrigger : Obligations.TimerAndPendingTrigger := by
  intro s h
  refine ⟨fun hd hcount => ?_, fun hno => ?_⟩
  · rw [tick_of_arms h ⟨hd, hcount⟩]
    exact ⟨rfl, rfl⟩
  · by_cases hd : s.dstate = .inflight
    · obtain ⟨htmr, htrig⟩ := tick_of_inflight_counts hd
      rw [htmr, htrig, tmrNext_toNat h]
      simp [hd]
    · rw [tick_of_waits h hd hno, State.pendEdge_tmr, tmrNext_toNat h, State.pendEdge_trigPend]
      simp [State.edge, hd, or_comm]

/-! ### The arming delay -/

section ArmDelay

variable {c : Config} {t : Nat}

/-- The arming delay without a remainder. -/
theorem armDelay_eq (halign : c.align ≤ c.tmrTop) (ht : t ≤ c.tmrTop) :
    armDelay c t = if t < c.align then c.align - t else c.align + c.period - t := by
  have hdist := ring_distance (Nat.lt_succ_of_le halign) (Nat.lt_succ_of_le ht)
  rw [armDelay, show c.period = c.tmrTop + 1 from rfl, hdist]
  split <;> omega

theorem armDelay_pos : 1 ≤ armDelay c t := Nat.succ_pos _

theorem armDelay_le (halign : c.align ≤ c.tmrTop) (ht : t ≤ c.tmrTop) : armDelay c t ≤ c.period := by
  rw [armDelay_eq halign ht, Config.period]
  split <;> omega

theorem armDelay_of_arms (halign : c.align ≤ c.tmrTop) (ht : t ≤ c.tmrTop) (harm : (t + 1) % c.period = c.align) :
    armDelay c t = 1 := by
  rw [Config.period, succ_mod_eq (Nat.lt_succ_of_le ht)] at harm
  rw [armDelay_eq halign ht, Config.period]
  split at harm <;> split <;> omega

/-- A tick that does not arm brings the arming tick one nearer. -/
theorem armDelay_of_waits (halign : c.align ≤ c.tmrTop) (ht : t ≤ c.tmrTop) (hwait : (t + 1) % c.period ≠ c.align) :
    armDelay c t = armDelay c ((t + 1) % c.period) + 1 := by
  have hnext : (t + 1) % c.period ≤ c.tmrTop := Nat.le_of_lt_succ (Nat.mod_lt _ (Nat.succ_pos _))
  rw [armDelay_eq halign ht, armDelay_eq halign hnext]
  rw [Config.period, succ_mod_eq (Nat.lt_succ_of_le ht)] at hwait hnext ⊢
  split at hwait <;> split <;> split <;> omega

end ArmDelay

/-- An armed block waits through the ticks before its arming tick, tick d of the arming delay d; each of them leaves a delay
that is one less. -/
theorem ticks_of_arming {d : Nat} {s : State} (h : s.Inv) (hd : s.dstate = .arming)
    (hdelay : armDelay s.cfg s.tmr.toNat = d) :
    (∀ n, n < d → (ticks n s).dstate = .arming ∧ (ticks n s).port = s.port) ∧
    ticks d s = { s with dstate := .inflight, trigPend := false, pairIdx := 0, tmr := 0 } := by
  induction d generalizing s with
  | zero => exact absurd hdelay (Nat.pos_iff_ne_zero.mp armDelay_pos)
  | succ d ih =>
    obtain ⟨-, -, ⟨halign, -⟩, -⟩ := h.cfgWf
    by_cases harm : (s.tmr.toNat + 1) % s.cfg.period = s.cfg.align
    · obtain rfl : d = 0 := by
        have hone := armDelay_of_arms halign h.tmrLe harm
        omega
      refine ⟨fun n hn => ?_, (armingTickStartsTransfer s h hd).1 harm⟩
      rw [Nat.lt_one_iff.mp hn]
      exact ⟨hd, rfl⟩
    · have hne : s.dstate ≠ .inflight := by simp [hd]
      have htick : tick s = s.pendEdge := tick_of_waits h hne fun ha => harm ha.2
      have hdelay' : armDelay (tick s).cfg (tick s).tmr.toNat = d := by
        have hstep := armDelay_of_waits halign h.tmrLe harm
        rw [htick, State.pendEdge_cfg, State.pendEdge_tmr, tmrNext_toNat h]
        omega
      obtain ⟨hwait, hstart⟩ := ih (tick_inv h) (by rw [htick]; exact hd) hdelay'
      refine ⟨fun n hn => ?_, hstart.trans ?_⟩
      · cases n with
        | zero => exact ⟨hd, rfl⟩
        | succ n =>
          obtain ⟨hdn, hpn⟩ := hwait n (Nat.lt_of_succ_lt_succ hn)
          exact ⟨hdn, hpn.trans (by rw [htick, State.pendEdge_port])⟩
      · rw [htick]
        simp only [State.pendEdge, State.countTick, elapsedNext_eq h (by simp [hd])]

/-- Settles O57: by the ticks that are left (`ticks_of_arming`). -/
theorem armingLatency : Obligations.ArmingLatency := by
  intro s h hd
  obtain ⟨-, -, ⟨halign, -⟩, -⟩ := h.cfgWf
  exact ⟨armDelay_pos, armDelay_le halign h.tmrLe, ticks_of_arming h hd rfl⟩

/-! ### The ticks of a transfer -/

/-- A transfer in flight that stands before pair i, with the timer at m. -/
structure State.Before (s : State) (i m : Nat) : Prop where
  dstate : s.dstate = .inflight
  pairIdx : s.pairIdx.toNat = i
  tmr : s.tmr.toNat = m

section TransferTick

variable {s : State} {i m : Nat}

/-- Without a trigger edge only the timer moves. -/
theorem tick_counts (h : s.Inv) (hs : s.Before i m) (hm : m < s.cfg.tmrTop) :
    (tick s).Before i (m + 1) ∧ (tick s).donePend = s.donePend := by
  obtain ⟨hd, hidx, htmr⟩ := hs
  have hnext : s.tmrNext.toNat = m + 1 := by
    rw [tmrNext_toNat h, htmr, Config.period, Nat.mod_eq_of_lt (Nat.succ_lt_succ hm)]
  rw [tick_of_no_edge hd (by omega)]
  exact ⟨⟨hd, hidx, hnext⟩, rfl⟩

/-- The trigger edge puts pair i on the port. -/
theorem tick_drives (h : s.Inv) (hs : s.Before i m) (hm : m = s.cfg.tmrTop) :
    (tick s).port = s.mem.activeAt s.cfg.dbuf i ∧ (tick s).pairIdx.toNat = i + 1 := by
  obtain ⟨hd, rfl, htmr⟩ := hs
  have hmove : s.Moves := ⟨hd, htmr.trans hm⟩
  by_cases hc : s.Completes
  · rw [tick_of_completes hc]
    exact ⟨rfl, pairIdx_succ h hd⟩
  · rw [tick_of_moves hmove hc]
    exact ⟨rfl, pairIdx_succ h hd⟩

/-- Before the last pair the trigger edge leads on to the next one. -/
theorem tick_moves_on (h : s.Inv) (hs : s.Before i m) (hm : m = s.cfg.tmrTop) (hi : i + 1 < s.cfg.regionPairs) :
    (tick s).Before (i + 1) 0 ∧ (tick s).donePend = s.donePend := by
  obtain ⟨hd, rfl, htmr⟩ := hs
  have hedge : s.tmr.toNat = s.cfg.tmrTop := htmr.trans hm
  rw [tick_of_moves ⟨hd, hedge⟩ fun hc => hi.ne hc.2]
  exact ⟨⟨hd, pairIdx_succ h hd, congrArg BitVec.toNat (tmrNext_edge hedge)⟩, rfl⟩

/-- At the last pair it completes the transfer. -/
theorem tick_completes (hs : s.Before i m) (hm : m = s.cfg.tmrTop) (hi : i + 1 = s.cfg.regionPairs) :
    (tick s).dstate = .idle ∧ (tick s).donePend = true ∧ (tick s).elapsed = 0 := by
  obtain ⟨hd, rfl, htmr⟩ := hs
  rw [tick_of_completes ⟨⟨hd, htmr.trans hm⟩, hi⟩]
  exact ⟨rfl, rfl, rfl⟩

end TransferTick

section TransferTicks

variable {s : State}

/-- Within a period only the timer moves. -/
theorem ticks_count (h : s.Inv) {i m : Nat} (hs : s.Before i 0) (hm : m ≤ s.cfg.tmrTop) :
    (ticks m s).Before i m ∧ (ticks m s).donePend = s.donePend := by
  induction m with
  | zero => exact ⟨hs, rfl⟩
  | succ m ih =>
    obtain ⟨hprev, hdone⟩ := ih (Nat.le_of_succ_le hm)
    obtain ⟨hnext, hkeep⟩ := tick_counts (ticks_inv h m) hprev (by rwa [ticks_cfg])
    rw [ticks_succ]
    exact ⟨hnext, hkeep.trans hdone⟩

/-- A period before the last pair leads to the next one. -/
theorem ticks_period (h : s.Inv) {i : Nat} (hs : s.Before i 0) (hi : i + 1 < s.cfg.regionPairs) :
    (ticks s.cfg.period s).Before (i + 1) 0 ∧ (ticks s.cfg.period s).donePend = s.donePend := by
  obtain ⟨hedge, hdone⟩ := ticks_count h hs le_rfl
  obtain ⟨hnext, hkeep⟩ := tick_moves_on (ticks_inv h _) hedge (by rw [ticks_cfg]) (by rwa [ticks_cfg])
  rw [Config.period, ticks_succ]
  exact ⟨hnext, hkeep.trans hdone⟩

/-- m ticks into period i of a transfer that begins in s. -/
theorem ticks_before (h : s.Inv) (hs : s.Before 0 0) {i m : Nat} (hi : i < s.cfg.regionPairs) (hm : m ≤ s.cfg.tmrTop) :
    (ticks (i * s.cfg.period + m) s).Before i m ∧ (ticks (i * s.cfg.period + m) s).donePend = s.donePend := by
  have hperiods : (ticks (i * s.cfg.period) s).Before i 0 ∧ (ticks (i * s.cfg.period) s).donePend = s.donePend := by
    clear hm
    induction i with
    | zero => rw [Nat.zero_mul]; exact ⟨hs, rfl⟩
    | succ i ih =>
      obtain ⟨hprev, hdone⟩ := ih (Nat.lt_of_succ_lt hi)
      obtain ⟨hnext, hkeep⟩ := ticks_period (ticks_inv h _) hprev (by rwa [ticks_cfg])
      rw [ticks_cfg, ← ticks_add, ← Nat.succ_mul] at hnext hkeep
      exact ⟨hnext, hkeep.trans hdone⟩
  obtain ⟨hstart, hdone⟩ := hperiods
  obtain ⟨hin, hkeep⟩ := ticks_count (m := m) (ticks_inv h _) hstart (by rwa [ticks_cfg])
  rw [ticks_add]
  exact ⟨hin, hkeep.trans hdone⟩

/-- Before the last tick of the region the transfer is in flight and signals nothing. -/
theorem ticks_in_flight (h : s.Inv) (hs : s.Before 0 0) {n : Nat} (hn : n < s.cfg.regionPairs * s.cfg.period) :
    (ticks n s).dstate = .inflight ∧ (ticks n s).donePend = s.donePend := by
  have hi : n / s.cfg.period < s.cfg.regionPairs := Nat.div_lt_of_lt_mul (by rwa [Nat.mul_comm])
  have hm : n % s.cfg.period ≤ s.cfg.tmrTop := Nat.le_of_lt_succ (Nat.mod_lt _ (Nat.succ_pos _))
  obtain ⟨hin, hdone⟩ := ticks_before h hs hi hm
  rw [Nat.div_add_mod'] at hin hdone
  exact ⟨hin.dstate, hdone⟩

/-- Period i drives pair i of the active region, in its last tick. -/
theorem ticks_drive (h : s.Inv) (hs : s.Before 0 0) {i : Nat} (hi : i < s.cfg.regionPairs) :
    (ticks ((i + 1) * s.cfg.period) s).port = s.mem.activeAt s.cfg.dbuf i ∧
    (ticks ((i + 1) * s.cfg.period) s).pairIdx.toNat = i + 1 := by
  obtain ⟨hedge, -⟩ := ticks_before h hs hi le_rfl
  have hdrive := tick_drives (ticks_inv h _) hedge (by rw [ticks_cfg])
  rwa [← ticks_succ, ticks_mem, ticks_cfg, Nat.add_assoc, ← Config.period, ← Nat.succ_mul] at hdrive

/-- The last period completes the transfer, in its last tick. -/
theorem ticks_complete (h : s.Inv) (hs : s.Before 0 0) :
    (ticks (s.cfg.regionPairs * s.cfg.period) s).dstate = .idle ∧
    (ticks (s.cfg.regionPairs * s.cfg.period) s).donePend = true ∧
    (ticks (s.cfg.regionPairs * s.cfg.period) s).elapsed = 0 := by
  have hpos := h.pairLt hs.dstate
  obtain ⟨i, hlast⟩ : ∃ i, i + 1 = s.cfg.regionPairs := ⟨s.cfg.regionPairs - 1, by omega⟩
  obtain ⟨hedge, -⟩ := ticks_before h hs (i := i) (by omega) le_rfl
  have hdone := tick_completes hedge (by rw [ticks_cfg]) (by rwa [ticks_cfg])
  rwa [← ticks_succ, Nat.add_assoc, ← Config.period, ← Nat.succ_mul, Nat.succ_eq_add_one, hlast] at hdone

/-- From a completion on the block is busy through SETTLE ticks (42_dispatcher.md R244, R248). -/
theorem ticks_busy_iff (h : s.Inv) (hd : s.dstate = .idle) (hel : s.elapsed = 0) (m : Nat) :
    (ticks m s).busy = true ↔ m ≤ s.cfg.settle := by
  rw [busy_iff, ticks_elapsed_of_idle h hd, ticks_idle hd, hel, ticks_cfg]
  simp

end TransferTicks

/-- Settles O58: the pairs by `ticks_drive`, the completion by `ticks_in_flight` and `ticks_complete`, and from there the settle
window. -/
theorem transferSchedule : Obligations.TransferSchedule := by
  intro s h hd htmr hidx
  have hs : s.Before 0 0 := ⟨hd, congrArg BitVec.toNat hidx, congrArg BitVec.toNat htmr⟩
  obtain ⟨hidle, hdone, hel⟩ := ticks_complete h hs
  refine ⟨fun i hi => ?_, fun n hn => ticks_in_flight h hs hn, hidle, hdone, fun m => ?_⟩
  · obtain ⟨hport, hcount⟩ := ticks_drive h hs hi
    rw [hport, active_getElem? h hi]
    exact ⟨rfl, hcount⟩
  · rw [ticks_add, ticks_busy_iff (ticks_inv h _) hidle hel, ticks_cfg]

/-- The course of an armed block: d ticks to the arming tick, then the transfer, then the settle window. -/
theorem ticks_of_armed {s : State} (h : s.Inv) (hd : s.dstate = .arming) {d : Nat} (hdelay : armDelay s.cfg s.tmr.toNat = d) :
    (∀ i, i < s.cfg.regionPairs → (ticks (d + (i + 1) * s.cfg.period) s).port = s.mem.activeAt s.cfg.dbuf i) ∧
    (ticks (d + s.cfg.regionPairs * s.cfg.period) s).donePend = true ∧
    (∀ n, n < d + s.cfg.regionPairs * s.cfg.period → (ticks n s).dstate ≠ .idle) ∧
    ∀ m, (ticks (d + s.cfg.regionPairs * s.cfg.period + m) s).busy = true ↔ m ≤ s.cfg.settle := by
  obtain ⟨hwait, hstart⟩ := ticks_of_arming h hd hdelay
  have hu : (ticks d s).Inv := ticks_inv h d
  have hs : (ticks d s).Before 0 0 := by
    rw [hstart]
    exact ⟨rfl, rfl, rfl⟩
  obtain ⟨hidle, hdone, hel⟩ := ticks_complete hu hs
  rw [ticks_cfg, ← ticks_add] at hidle hdone hel
  refine ⟨fun i hi => ?_, hdone, fun n hn => ?_, fun m => ?_⟩
  · obtain ⟨hport, -⟩ := ticks_drive hu hs (i := i) (by rwa [ticks_cfg])
    rwa [ticks_cfg, ticks_mem, ← ticks_add] at hport
  · obtain hlt | hge := Nat.lt_or_ge n d
    · obtain ⟨harming, -⟩ := hwait n hlt
      simp [harming]
    · obtain ⟨k, rfl⟩ := Nat.exists_eq_add_of_le hge
      obtain ⟨hflight, -⟩ := ticks_in_flight hu hs (n := k) (by rw [ticks_cfg]; omega)
      rw [ticks_add, hflight]
      nofun
  · rw [ticks_add (d + s.cfg.regionPairs * s.cfg.period), ticks_busy_iff (ticks_inv h _) hidle hel, ticks_cfg]

/-- What an accepted DISPATCH leaves: an armed block whose active region holds the staging region. -/
theorem dispatch_arms {s t : State} (h : s.Inv) (hb : s.busy = false) (hr : exec .dispatch s = .next t) :
    t.Inv ∧ t.dstate = .arming ∧ t.cfg = s.cfg ∧ t.tmr = s.tmr ∧ t.mem.active s.cfg.dbuf = s.mem.stage := by
  have ht := exec_inv h hr
  cases hr.symm.trans (exec_dispatch_of_not_busy hb)
  exact ⟨ht, rfl, rfl, rfl, active_copyToActive s.mem s.cfg.dbuf⟩

/-- Settles O59: the DISPATCH arms with the staging region as it stood (`dispatch_arms`), and `ticks_of_armed` gives the rest. -/
theorem acceptedDispatchCompletes : Obligations.AcceptedDispatchCompletes := by
  intro s t h hb hr d last
  obtain ⟨ht, hd, hcfg, htmr, hactive⟩ := dispatch_arms h hb hr
  obtain ⟨hdrive, hdone, hrun, hbusy⟩ := ticks_of_armed (d := d) ht hd (by rw [hcfg, htmr])
  rw [hcfg] at hdrive hdone hrun hbusy
  refine ⟨fun i hi => ?_, hdone, fun n hn => ?_, ?_⟩
  · rw [hdrive i hi, Memory.activeAt, hactive, stage_getElem? h hi]
    rfl
  · obtain hlt | hge := Nat.lt_or_ge n last
    · exact (busy_iff _).mpr (.inl (hrun n hlt))
    · obtain ⟨m, rfl⟩ := Nat.exists_eq_add_of_le hge
      exact (hbusy m).mpr (Nat.le_of_add_le_add_left hn)
  · rw [← Bool.not_eq_true, Nat.add_assoc]
    exact fun hstill => absurd ((hbusy _).mp hstill) (Nat.not_succ_le_self _)

end Sys2Proof.Machine
